-- ==== Sys2Proof/Word.lean ====
section
/-! DEFINITION. The word types: a byte is the smallest unit the spec sees (20_memory R54), operands are 32-bit (R50, R56). -/

namespace Sys2Proof

/-- A byte, bits 7 down to 0 (00_scope R8). -/
abbrev Byte := BitVec 8

/-- A 32-bit operand: an address, a register's data, a size (20_memory R50, R56). -/
abbrev Word := BitVec 32

/-- A 7-bit CRC value (10_state R21). -/
abbrev Crc := BitVec 7

/-- A layer-B result code, a signed 8-bit value (00_scope R10). -/
abbrev Code := BitVec 8

/-- The name of a host buffer (20_memory R51); its width is the model's (log entry 10). -/
abbrev BufId := BitVec 16

end Sys2Proof
end

