-- ==== Sys2Proof/Syntax.lean ====
section
/-! DEFINITION. The instructions: one constructor per row of `spec/opcode_table.json`, and the six spaces its rows live in. -/

namespace Sys2Proof

/-- The table's `space` column: what a word is read as depends on where it stands (log entry 11). -/
inductive Space
  /-- request port (30_encoding R90) -/
  | request
  /-- wire command frame, host to slave (30_encoding R71) -/
  | command
  /-- response byte read in phase 1 of `SPI_CMD_RSP` (30_encoding R83) -/
  | echo
  /-- response byte read in phase 2 of `SPI_CMD_RSP` (30_encoding R83) -/
  | status
  /-- data frame header, host to slave (30_encoding R84) -/
  | writeHeader
  /-- data frame header, slave to host (30_encoding R85) -/
  | readHeader
deriving DecidableEq, Repr

/-- One constructor per row of the opcode table. The first seventeen are the wire rows, with the fields the frame
carries (log entry 12); the last twenty are the request-port operations with the operands of 30_encoding R88. -/
inductive Instr
  /-- `CMD_DMA_WRITE` (R126): `adr[23:0]`, `sz[15:0]`. -/
  | cmdDmaWrite (a : BitVec 24) (sz : BitVec 16)
  /-- `CMD_DMA_READ` (R127): `adr[23:0]`, `sz[15:0]`. -/
  | cmdDmaRead (a : BitVec 24) (sz : BitVec 16)
  /-- `CMD_INTERNAL_WRITE` (R130): `adr[15] | clk`, `adr[14:0]`, `dat`. -/
  | cmdInternalWrite (k : Bool) (a : BitVec 15) (dat : Word)
  /-- `CMD_INTERNAL_READ` (R122): `adr[15] | clk`, `adr[14:0]`. -/
  | cmdInternalRead (k : Bool) (a : BitVec 15)
  /-- `CMD_TERMINATE` (R123). -/
  | cmdTerminate
  /-- `CMD_REPEAT` (R124). -/
  | cmdRepeat
  /-- `CMD_DMA_EXT_WRITE` (R128): `adr[23:0]`, `sz[23:0]`. -/
  | cmdDmaExtWrite (a : BitVec 24) (sz : BitVec 24)
  /-- `CMD_DMA_EXT_READ` (R129): `adr[23:0]`, `sz[23:0]`. -/
  | cmdDmaExtRead (a : BitVec 24) (sz : BitVec 24)
  /-- `CMD_SINGLE_WRITE` (R131): `adr[23:0]`, `dat`. -/
  | cmdSingleWrite (a : BitVec 24) (dat : Word)
  /-- `CMD_SINGLE_READ` (R121): `adr[23:0]`. -/
  | cmdSingleRead (a : BitVec 24)
  /-- `CMD_RESET` (R125). -/
  | cmdReset
  /-- `RSP_ECHO` (R134 phase 1): the opcode byte awaited. -/
  | rspEcho (o : Byte)
  /-- `RSP_STATUS` (R134 phase 2): the zero byte awaited. -/
  | rspStatus
  /-- `DATA_HDR_FIRST` (R151). -/
  | dataHdrFirst
  /-- `DATA_HDR_MIDDLE` (R151). -/
  | dataHdrMiddle
  /-- `DATA_HDR_LAST` (R151). -/
  | dataHdrLast
  /-- `DATA_RSP_HDR` (R150): `x` is the low nibble, which is ignored. -/
  | dataRspHdr (x : BitVec 4)
  /-- `CRC7_BYTE` (R101). -/
  | crc7Byte (c : Crc) (d : Byte)
  /-- `CRC7` (R102). -/
  | crc7 (seed : Crc) (bs : List Byte)
  /-- `CRC7_TX` (R103). -/
  | crc7Tx (bs : List Byte)
  /-- `CRC7_CHECK` (R104). -/
  | crc7Check (bs : List Byte)
  /-- `SPI_CMD` (R120). -/
  | spiCmd (cmd : Byte) (adr dat sz : Word) (clk : Bool)
  /-- `SPI_CMD_RSP` (R134). -/
  | spiCmdRsp (cmd : Byte)
  /-- `SPI_DATA_READ` (R150). -/
  | spiDataRead (buf : BufId) (off : Nat) (size : BitVec 16) (clk : Bool)
  /-- `SPI_DATA_WRITE` (R151). -/
  | spiDataWrite (buf : BufId) (off : Nat) (size : BitVec 16)
  /-- `SPI_RESET` (R170). -/
  | spiReset
  /-- `XREG_RD` (R171). -/
  | xregRd (adr : Word)
  /-- `XREG_WR` (R172). -/
  | xregWr (adr dat : Word)
  /-- `XBLK_RD` (R173). -/
  | xblkRd (adr : Word) (buf : BufId) (off : Nat) (n : BitVec 16)
  /-- `XBLK_WR` (R174). -/
  | xblkWr (adr : Word) (buf : BufId) (off : Nat) (n : BitVec 16)
  /-- `READ_REG` (R191). -/
  | readReg (r : Nat) (adr : Word)
  /-- `WRITE_REG` (R192). -/
  | writeReg (r : Nat) (adr dat : Word)
  /-- `READ_BLOCK` (R194). -/
  | readBlock (r : Nat) (adr : Word) (buf : BufId) (size : Word)
  /-- `WRITE_BLOCK` (R195). -/
  | writeBlock (r : Nat) (adr : Word) (buf : BufId) (size : Word)
  /-- `SET_CRC` (R198). -/
  | setCrc (off : Bool)
  /-- `LOCK_ACQUIRE` (R190). -/
  | lockAcquire (r : Nat)
  /-- `LOCK_RELEASE` (R190). -/
  | lockRelease (r : Nat)
deriving DecidableEq, Repr

/-- The requester an operation names among its operands (layer B but `SET_CRC`, 30_encoding R88, 44_bus R190 to R195). -/
def Instr.requester? : Instr → Option Nat
  | .readReg r _ => some r
  | .writeReg r _ _ => some r
  | .readBlock r _ _ _ => some r
  | .writeBlock r _ _ _ => some r
  | .lockAcquire r => some r
  | .lockRelease r => some r
  | .cmdDmaWrite .. => none
  | .cmdDmaRead .. => none
  | .cmdInternalWrite .. => none
  | .cmdInternalRead .. => none
  | .cmdTerminate => none
  | .cmdRepeat => none
  | .cmdDmaExtWrite .. => none
  | .cmdDmaExtRead .. => none
  | .cmdSingleWrite .. => none
  | .cmdSingleRead .. => none
  | .cmdReset => none
  | .rspEcho _ => none
  | .rspStatus => none
  | .dataHdrFirst => none
  | .dataHdrMiddle => none
  | .dataHdrLast => none
  | .dataRspHdr _ => none
  | .crc7Byte .. => none
  | .crc7 .. => none
  | .crc7Tx _ => none
  | .crc7Check _ => none
  | .spiCmd .. => none
  | .spiCmdRsp _ => none
  | .spiDataRead .. => none
  | .spiDataWrite .. => none
  | .spiReset => none
  | .xregRd _ => none
  | .xregWr .. => none
  | .xblkRd .. => none
  | .xblkWr .. => none
  | .setCrc _ => none

/-- The space an instruction's word stands in (the table's `space` column). -/
def Instr.space : Instr → Space
  | .cmdDmaWrite .. => .command
  | .cmdDmaRead .. => .command
  | .cmdInternalWrite .. => .command
  | .cmdInternalRead .. => .command
  | .cmdTerminate => .command
  | .cmdRepeat => .command
  | .cmdDmaExtWrite .. => .command
  | .cmdDmaExtRead .. => .command
  | .cmdSingleWrite .. => .command
  | .cmdSingleRead .. => .command
  | .cmdReset => .command
  | .rspEcho _ => .echo
  | .rspStatus => .status
  | .dataHdrFirst => .writeHeader
  | .dataHdrMiddle => .writeHeader
  | .dataHdrLast => .writeHeader
  | .dataRspHdr _ => .readHeader
  | .crc7Byte .. => .request
  | .crc7 .. => .request
  | .crc7Tx _ => .request
  | .crc7Check _ => .request
  | .spiCmd .. => .request
  | .spiCmdRsp _ => .request
  | .spiDataRead .. => .request
  | .spiDataWrite .. => .request
  | .spiReset => .request
  | .xregRd _ => .request
  | .xregWr .. => .request
  | .xblkRd .. => .request
  | .xblkWr .. => .request
  | .readReg .. => .request
  | .writeReg .. => .request
  | .readBlock .. => .request
  | .writeBlock .. => .request
  | .setCrc _ => .request
  | .lockAcquire _ => .request
  | .lockRelease _ => .request

end Sys2Proof
end

