-- ==== Sys2Proof/Config.lean ====
section
/-! DEFINITION. The configuration record `CFG` (00_scope R6, R7) and the free values the spec leaves open. -/

namespace Sys2Proof

/-- The eleven SPI commands (30_encoding R81). -/
inductive CmdName
  | dmaWrite | dmaRead | internalWrite | internalRead | terminate | repeat_
  | dmaExtWrite | dmaExtRead | singleWrite | singleRead | reset
deriving DecidableEq, Repr

/-- `CFG.OPC`: the opcode byte of each command (00_scope R6, 30_encoding R81). -/
structure OpcMap where
  dmaWrite : Byte
  dmaRead : Byte
  internalWrite : Byte
  internalRead : Byte
  terminate : Byte
  repeat_ : Byte
  dmaExtWrite : Byte
  dmaExtRead : Byte
  singleWrite : Byte
  singleRead : Byte
  reset : Byte
deriving DecidableEq, Repr

/-- The configuration record, one field per row of 00_scope R6. Fixed before reset: no operation changes it (10_state R20). -/
structure Cfg where
  /-- `CRC7_SEED` -/
  crc7Seed : Crc
  /-- `CRC7_TABLE`, 256 entries -/
  crc7Table : List Crc
  /-- `RSP_RETRY` -/
  rspRetry : Nat
  /-- `OP_RETRY` -/
  opRetry : Nat
  /-- `DATA_PKT_SZ` -/
  dataPktSz : Nat
  /-- `MAX_TRX_SZ` -/
  maxTrxSz : BitVec 16
  /-- `TRX_OVERHEAD` -/
  trxOverhead : BitVec 16
  /-- `OPC` -/
  opc : OpcMap
  /-- `CLOCKLESS_RD_MAX` -/
  clocklessRdMax : Word
  /-- `CLOCKLESS_WR_MAX` -/
  clocklessWrMax : Word
  /-- `M2M_SUCCESS` -/
  success : Code
  /-- `M2M_ERR_BUS_FAIL` -/
  errBusFail : Code
  /-- `NREQ` -/
  nreq : Nat
deriving DecidableEq, Repr

/-- Free value (93 U10, U11, U13): the `n`-th byte drawn. Nothing constrains it (log entry 2). -/
opaque Config.freeByte : Nat → Byte

/-- Free value (93 U10): whether the transport call made at draw `n` is answered `ok` (log entry 2). -/
opaque Config.freeOk : Nat → Bool

/-- Free value (93 U16): the scheduler's choice at draw `n` (log entry 14). -/
opaque Config.freeTurn : Nat → Nat

end Sys2Proof
end

