-- ==== Sys2Proof/WellFormed.lean ====
section
/-! DEFINITION. The checks the types do not make: opcode maps and configurations (00_scope R7). Instructions need none: a word
carries every term of `Instr` (log entry 10), and an operand outside a rule's domain is refused by the operation. -/

namespace Sys2Proof

/-- The eleven opcode bytes of a map (30_encoding R81). -/
def OpcMap.values (m : OpcMap) : List Byte :=
  [m.dmaWrite, m.dmaRead, m.internalWrite, m.internalRead, m.terminate, m.repeat_,
   m.dmaExtWrite, m.dmaExtRead, m.singleWrite, m.singleRead, m.reset]

/-- An opcode map is well-formed: pairwise distinct values, none `0x00` (00_scope R7). -/
def OpcMap.wf (m : OpcMap) : Bool :=
  decide m.values.Nodup && decide ((0 : Byte) ∉ m.values)

/-- A configuration is well-formed (00_scope R7). The table's length is part of its type in R6 (log entry 7). -/
def Cfg.wf (c : Cfg) : Bool :=
  decide (c.trxOverhead.toNat < c.maxTrxSz.toNat) && decide (1 ≤ c.dataPktSz) && decide (c.errBusFail ≠ 0) &&
  c.opc.wf && decide (1 ≤ c.nreq) && decide (c.crc7Table.length = 256)

end Sys2Proof
end

