-- ==== Sys2Proof/Decode.lean ====
section
/-! DEFINITION. The decoder, total on any bytes and rejecting by name, and the encoder. A word is read in one of the six
spaces of the opcode table. Command frames are 30_encoding R71 to R82 under the map `CFG.OPC`; the request port's select
codes are R90's and the layout of the operand bytes after the select byte is the model's (log entry 10): every multi-byte
operand of a width most significant byte first, a Boolean in one byte; a byte sequence, a requester number and a buffer offset
closed by a mark, so that none has a bound. Bytes after the last one an instruction reads are not looked at, nor are the
constant payload bytes of formats F5I and F5K and the CRC byte, which the block itself supplies (log entry 11). -/

namespace Sys2Proof

/-- Why a word is no instruction. -/
inductive DecodeError
  /-- no byte at all -/
  | emptyWord
  /-- the opcode byte is none of the eleven values of `CFG.OPC` (30_encoding R86) -/
  | unknownOpcode (b : Byte)
  /-- the select code is not in the table of 30_encoding R90 -/
  | unknownSelect (b : Byte)
  /-- the word ends before its operands do -/
  | truncated
  /-- a one-bit operand or a mark is neither 0 nor 1, or a 7-bit operand has bit 7 set -/
  | badOperand (b : Byte)
  /-- a status byte other than `0x00` (30_encoding R83) -/
  | notStatus (b : Byte)
  /-- no data-frame header of that direction (30_encoding R84, R85) -/
  | notHeader (b : Byte)
deriving DecidableEq, Repr

/-! ## Byte order and slices -/

/-- The two bytes of a 16-bit value, most significant first (20_memory R52). -/
def be16 (v : BitVec 16) : List Byte := [v.extractLsb' 8 8, v.extractLsb' 0 8]

/-- The three bytes of a 24-bit value, most significant first (20_memory R52). -/
def be24 (v : BitVec 24) : List Byte := [v.extractLsb' 16 8, v.extractLsb' 8 8, v.extractLsb' 0 8]

/-- The four bytes of a 32-bit value, most significant first (20_memory R52). -/
def be32 (v : Word) : List Byte :=
  [v.extractLsb' 24 8, v.extractLsb' 16 8, v.extractLsb' 8 8, v.extractLsb' 0 8]

/-- A one-bit operand in a byte of its own. -/
def boolByte (b : Bool) : Byte := if b then 1 else 0

/-- Read a one-bit operand's byte. -/
def readBool (b : Byte) : Option Bool := if b = 0 then some false else if b = 1 then some true else none

/-- Read a 7-bit operand's byte: bit 7 is 0. -/
def readCrc (b : Byte) : Option Crc := if b.extractLsb' 7 1 = 0 then some (b.extractLsb' 0 7) else none

/-- A byte sequence, of any length: the mark `01` before each byte, the mark `00` after the last. -/
def seqBytes : List Byte → List Byte
  | [] => [0]
  | b :: bs => 1 :: b :: seqBytes bs

/-- Read a byte sequence up to the mark that closes it; what follows it comes with it. -/
def readSeq : List Byte → Except DecodeError (List Byte × List Byte)
  | [] => .error .truncated
  | [f] => if f = 0 then .ok ([], []) else if f = 1 then .error .truncated else .error (.badOperand f)
  | f :: b :: rest =>
    if f = 0 then .ok ([], b :: rest)
    else if f = 1 then
      match readSeq rest with
      | .ok (bs, tail) => .ok (b :: bs, tail)
      | .error e => .error e
    else .error (.badOperand f)

/-- The digits of a natural number, the lowest first, each in a byte: a byte `d` stands for the digit `d + 1` of 1 to 256, and 0
has no digits, so that every number has one sequence and every sequence is a number's. `k` bounds their number. -/
def digits : Nat → Nat → List Byte
  | 0, _ => []
  | k + 1, n => if n = 0 then [] else BitVec.ofNat 8 ((n - 1) % 256) :: digits k ((n - 1) / 256)

/-- The number these digits are. -/
def ofDigits : List Byte → Nat
  | [] => 0
  | d :: ds => d.toNat + 1 + 256 * ofDigits ds

/-- A natural number, of any size: the sequence of its digits. -/
def natBytes (n : Nat) : List Byte := seqBytes (digits n n)

/-- Read a natural number. -/
def readNat (w : List Byte) : Except DecodeError (Nat × List Byte) :=
  match readSeq w with
  | .ok (ds, tail) => .ok (ofDigits ds, tail)
  | .error e => .error e

/-! ## Commands -/

/-- The opcode byte of a command (30_encoding R81). -/
def OpcMap.code (m : OpcMap) : CmdName → Byte
  | .dmaWrite => m.dmaWrite
  | .dmaRead => m.dmaRead
  | .internalWrite => m.internalWrite
  | .internalRead => m.internalRead
  | .terminate => m.terminate
  | .repeat_ => m.repeat_
  | .dmaExtWrite => m.dmaExtWrite
  | .dmaExtRead => m.dmaExtRead
  | .singleWrite => m.singleWrite
  | .singleRead => m.singleRead
  | .reset => m.reset

/-- The command a byte selects, if it is one of the eleven values of the map (30_encoding R81, R86). -/
def OpcMap.name? (m : OpcMap) (b : Byte) : Option CmdName :=
  if b = m.dmaWrite then some .dmaWrite
  else if b = m.dmaRead then some .dmaRead
  else if b = m.internalWrite then some .internalWrite
  else if b = m.internalRead then some .internalRead
  else if b = m.terminate then some .terminate
  else if b = m.repeat_ then some .repeat_
  else if b = m.dmaExtWrite then some .dmaExtWrite
  else if b = m.dmaExtRead then some .dmaExtRead
  else if b = m.singleWrite then some .singleWrite
  else if b = m.singleRead then some .singleRead
  else if b = m.reset then some .reset
  else none

/-- The opcode map of 30_encoding R81. -/
def defaultOpc : OpcMap where
  dmaWrite := 0xC1
  dmaRead := 0xC2
  internalWrite := 0xC3
  internalRead := 0xC4
  terminate := 0xC5
  repeat_ := 0xC6
  dmaExtWrite := 0xC7
  dmaExtRead := 0xC8
  singleWrite := 0xC9
  singleRead := 0xCA
  reset := 0xCF

/-- The fields of a command frame after its opcode byte (30_encoding R73 to R79). -/
def decodeFields : CmdName → List Byte → Except DecodeError Instr
  | .dmaWrite, a2 :: a1 :: a0 :: s1 :: s0 :: _ => .ok (.cmdDmaWrite (a2 ++ a1 ++ a0 : BitVec 24) (s1 ++ s0 : BitVec 16))
  | .dmaRead, a2 :: a1 :: a0 :: s1 :: s0 :: _ => .ok (.cmdDmaRead (a2 ++ a1 ++ a0 : BitVec 24) (s1 ++ s0 : BitVec 16))
  | .internalWrite, a1 :: a0 :: d3 :: d2 :: d1 :: d0 :: _ =>
    .ok (.cmdInternalWrite (a1.getLsbD 7) (a1.extractLsb' 0 7 ++ a0 : BitVec 15) (d3 ++ d2 ++ d1 ++ d0 : BitVec 32))
  | .internalRead, a1 :: a0 :: _ => .ok (.cmdInternalRead (a1.getLsbD 7) (a1.extractLsb' 0 7 ++ a0 : BitVec 15))
  | .terminate, _ => .ok .cmdTerminate
  | .repeat_, _ => .ok .cmdRepeat
  | .dmaExtWrite, a2 :: a1 :: a0 :: s2 :: s1 :: s0 :: _ =>
    .ok (.cmdDmaExtWrite (a2 ++ a1 ++ a0 : BitVec 24) (s2 ++ s1 ++ s0 : BitVec 24))
  | .dmaExtRead, a2 :: a1 :: a0 :: s2 :: s1 :: s0 :: _ =>
    .ok (.cmdDmaExtRead (a2 ++ a1 ++ a0 : BitVec 24) (s2 ++ s1 ++ s0 : BitVec 24))
  | .singleWrite, a2 :: a1 :: a0 :: d3 :: d2 :: d1 :: d0 :: _ =>
    .ok (.cmdSingleWrite (a2 ++ a1 ++ a0 : BitVec 24) (d3 ++ d2 ++ d1 ++ d0 : BitVec 32))
  | .singleRead, a2 :: a1 :: a0 :: _ => .ok (.cmdSingleRead (a2 ++ a1 ++ a0 : BitVec 24))
  | .reset, _ => .ok .cmdReset
  | _, _ => .error .truncated

/-- A word of the command space. -/
def decodeCommand (m : OpcMap) : List Byte → Except DecodeError Instr
  | [] => .error .emptyWord
  | b :: rest =>
    match m.name? b with
    | some c => decodeFields c rest
    | none => .error (.unknownOpcode b)

/-! ## Requests -/

/-- The twenty operations of the request port (30_encoding R90). -/
inductive Select
  | crc7Byte | crc7 | crc7Tx | crc7Check
  | spiCmd | spiCmdRsp | spiDataRead | spiDataWrite | spiReset
  | xregRd | xregWr | xblkRd | xblkWr
  | readReg | writeReg | readBlock | writeBlock | setCrc | lockAcquire | lockRelease
deriving DecidableEq, Repr

/-- The select code `op[4:0]` (30_encoding R90), in the low bits of the select byte; bits 7:5 are 0. -/
def Select.code : Select → Byte
  | .crc7Byte => 0x01
  | .crc7 => 0x02
  | .crc7Tx => 0x03
  | .crc7Check => 0x04
  | .spiCmd => 0x08
  | .spiCmdRsp => 0x09
  | .spiDataRead => 0x0A
  | .spiDataWrite => 0x0B
  | .spiReset => 0x0C
  | .xregRd => 0x10
  | .xregWr => 0x11
  | .xblkRd => 0x12
  | .xblkWr => 0x13
  | .readReg => 0x18
  | .writeReg => 0x19
  | .readBlock => 0x1A
  | .writeBlock => 0x1B
  | .setCrc => 0x1C
  | .lockAcquire => 0x1D
  | .lockRelease => 0x1E

/-- The operation a select byte names (30_encoding R90); every other code is refused. -/
def selectOf (b : Byte) : Option Select :=
  match b.toNat with
  | 0x01 => some .crc7Byte
  | 0x02 => some .crc7
  | 0x03 => some .crc7Tx
  | 0x04 => some .crc7Check
  | 0x08 => some .spiCmd
  | 0x09 => some .spiCmdRsp
  | 0x0A => some .spiDataRead
  | 0x0B => some .spiDataWrite
  | 0x0C => some .spiReset
  | 0x10 => some .xregRd
  | 0x11 => some .xregWr
  | 0x12 => some .xblkRd
  | 0x13 => some .xblkWr
  | 0x18 => some .readReg
  | 0x19 => some .writeReg
  | 0x1A => some .readBlock
  | 0x1B => some .writeBlock
  | 0x1C => some .setCrc
  | 0x1D => some .lockAcquire
  | 0x1E => some .lockRelease
  | _ => none

/-- The operands of a request after its select byte (30_encoding R88; layout: log entry 10). -/
def decodeOperands : Select → List Byte → Except DecodeError Instr
  | .crc7Byte, c :: d :: _ =>
    match readCrc c with
    | some v => .ok (.crc7Byte v d)
    | none => .error (.badOperand c)
  | .crc7, c :: rest =>
    match readCrc c with
    | some v =>
      match readSeq rest with
      | .ok (bs, _) => .ok (.crc7 v bs)
      | .error e => .error e
    | none => .error (.badOperand c)
  | .crc7Tx, rest =>
    match readSeq rest with
    | .ok (bs, _) => .ok (.crc7Tx bs)
    | .error e => .error e
  | .crc7Check, rest =>
    match readSeq rest with
    | .ok (bs, _) => .ok (.crc7Check bs)
    | .error e => .error e
  | .spiCmd, c :: a3 :: a2 :: a1 :: a0 :: d3 :: d2 :: d1 :: d0 :: s3 :: s2 :: s1 :: s0 :: k :: _ =>
    match readBool k with
    | some clk =>
      .ok (.spiCmd c (a3 ++ a2 ++ a1 ++ a0 : BitVec 32) (d3 ++ d2 ++ d1 ++ d0 : BitVec 32)
        (s3 ++ s2 ++ s1 ++ s0 : BitVec 32) clk)
    | none => .error (.badOperand k)
  | .spiCmdRsp, c :: _ => .ok (.spiCmdRsp c)
  | .spiDataRead, b1 :: b0 :: w =>
    match readNat w with
    | .ok (off, n1 :: n0 :: k :: _) =>
      match readBool k with
      | some clk => .ok (.spiDataRead (b1 ++ b0 : BitVec 16) off (n1 ++ n0 : BitVec 16) clk)
      | none => .error (.badOperand k)
    | .ok _ => .error .truncated
    | .error e => .error e
  | .spiDataWrite, b1 :: b0 :: w =>
    match readNat w with
    | .ok (off, n1 :: n0 :: _) => .ok (.spiDataWrite (b1 ++ b0 : BitVec 16) off (n1 ++ n0 : BitVec 16))
    | .ok _ => .error .truncated
    | .error e => .error e
  | .spiReset, _ => .ok .spiReset
  | .xregRd, a3 :: a2 :: a1 :: a0 :: _ => .ok (.xregRd (a3 ++ a2 ++ a1 ++ a0 : BitVec 32))
  | .xregWr, a3 :: a2 :: a1 :: a0 :: d3 :: d2 :: d1 :: d0 :: _ =>
    .ok (.xregWr (a3 ++ a2 ++ a1 ++ a0 : BitVec 32) (d3 ++ d2 ++ d1 ++ d0 : BitVec 32))
  | .xblkRd, a3 :: a2 :: a1 :: a0 :: b1 :: b0 :: w =>
    match readNat w with
    | .ok (off, n1 :: n0 :: _) =>
      .ok (.xblkRd (a3 ++ a2 ++ a1 ++ a0 : BitVec 32) (b1 ++ b0 : BitVec 16) off (n1 ++ n0 : BitVec 16))
    | .ok _ => .error .truncated
    | .error e => .error e
  | .xblkWr, a3 :: a2 :: a1 :: a0 :: b1 :: b0 :: w =>
    match readNat w with
    | .ok (off, n1 :: n0 :: _) =>
      .ok (.xblkWr (a3 ++ a2 ++ a1 ++ a0 : BitVec 32) (b1 ++ b0 : BitVec 16) off (n1 ++ n0 : BitVec 16))
    | .ok _ => .error .truncated
    | .error e => .error e
  | .readReg, w =>
    match readNat w with
    | .ok (r, a3 :: a2 :: a1 :: a0 :: _) => .ok (.readReg r (a3 ++ a2 ++ a1 ++ a0 : BitVec 32))
    | .ok _ => .error .truncated
    | .error e => .error e
  | .writeReg, w =>
    match readNat w with
    | .ok (r, a3 :: a2 :: a1 :: a0 :: d3 :: d2 :: d1 :: d0 :: _) =>
      .ok (.writeReg r (a3 ++ a2 ++ a1 ++ a0 : BitVec 32) (d3 ++ d2 ++ d1 ++ d0 : BitVec 32))
    | .ok _ => .error .truncated
    | .error e => .error e
  | .readBlock, w =>
    match readNat w with
    | .ok (r, a3 :: a2 :: a1 :: a0 :: b1 :: b0 :: s3 :: s2 :: s1 :: s0 :: _) =>
      .ok (.readBlock r (a3 ++ a2 ++ a1 ++ a0 : BitVec 32) (b1 ++ b0 : BitVec 16) (s3 ++ s2 ++ s1 ++ s0 : BitVec 32))
    | .ok _ => .error .truncated
    | .error e => .error e
  | .writeBlock, w =>
    match readNat w with
    | .ok (r, a3 :: a2 :: a1 :: a0 :: b1 :: b0 :: s3 :: s2 :: s1 :: s0 :: _) =>
      .ok (.writeBlock r (a3 ++ a2 ++ a1 ++ a0 : BitVec 32) (b1 ++ b0 : BitVec 16) (s3 ++ s2 ++ s1 ++ s0 : BitVec 32))
    | .ok _ => .error .truncated
    | .error e => .error e
  | .setCrc, b :: _ =>
    match readBool b with
    | some off => .ok (.setCrc off)
    | none => .error (.badOperand b)
  | .lockAcquire, w =>
    match readNat w with
    | .ok (r, _) => .ok (.lockAcquire r)
    | .error e => .error e
  | .lockRelease, w =>
    match readNat w with
    | .ok (r, _) => .ok (.lockRelease r)
    | .error e => .error e
  | _, _ => .error .truncated

/-- A word of the request space. -/
def decodeRequest : List Byte → Except DecodeError Instr
  | [] => .error .emptyWord
  | b :: rest =>
    match selectOf b with
    | some sel => decodeOperands sel rest
    | none => .error (.unknownSelect b)

/-! ## Response bytes and data-frame headers -/

/-- A response byte awaited in phase 1: any byte (30_encoding R83). -/
def decodeEcho : List Byte → Except DecodeError Instr
  | [] => .error .emptyWord
  | b :: _ => .ok (.rspEcho b)

/-- A response byte awaited in phase 2: zero (30_encoding R83). -/
def decodeStatus : List Byte → Except DecodeError Instr
  | [] => .error .emptyWord
  | b :: _ => if b = 0 then .ok .rspStatus else .error (.notStatus b)

/-- A header of the write direction: `0xF1`, `0xF2`, `0xF3` (30_encoding R84). -/
def decodeWriteHeader : List Byte → Except DecodeError Instr
  | [] => .error .emptyWord
  | b :: _ =>
    if b = 0xF1 then .ok .dataHdrFirst
    else if b = 0xF2 then .ok .dataHdrMiddle
    else if b = 0xF3 then .ok .dataHdrLast
    else .error (.notHeader b)

/-- A header of the read direction: `1111xxxx` (30_encoding R85). -/
def decodeReadHeader : List Byte → Except DecodeError Instr
  | [] => .error .emptyWord
  | b :: _ => if b.extractLsb' 4 4 = 0xF then .ok (.dataRspHdr (b.extractLsb' 0 4)) else .error (.notHeader b)

/-- The instruction a word of a space is. -/
def decodeIn (m : OpcMap) : Space → List Byte → Except DecodeError Instr
  | .request, w => decodeRequest w
  | .command, w => decodeCommand m w
  | .echo, w => decodeEcho w
  | .status, w => decodeStatus w
  | .writeHeader, w => decodeWriteHeader w
  | .readHeader, w => decodeReadHeader w

/-! ## The opcode table's own numbering -/

/-- The space a table word belongs to, by its first byte (log entry 11): `0x00` is the status byte, `0x01 .. 0x1F` the
request port's codes, `0xC0 .. 0xCF` the opcodes, `0xF1 .. 0xF3` the write headers, the other `0xF?` the read header;
what is left can only be an echo, whose row fixes no bit. -/
def spaceOf (b : Byte) : Space :=
  if b = 0 then .status
  else if b.toNat < 0x20 then .request
  else if b.extractLsb' 4 4 = 0xC then .command
  else if b.extractLsb' 4 4 = 0xF then
    if b = 0xF1 ∨ b = 0xF2 ∨ b = 0xF3 then .writeHeader else .readHeader
  else .echo

/-- How many bytes a table word is laid out in: the longest instruction of fixed length has 15. -/
def wordRoom : Nat := 16

/-- The bytes of a number as the table numbers its bits: bits 7:0 are the first byte. -/
def tableBytes : Nat → Nat → List Byte
  | 0, _ => []
  | k + 1, w => BitVec.ofNat 8 w :: tableBytes k (w / 256)

/-- A table word laid out: its `nbits` low bits, every bit above them 0. -/
def layoutWord (nbits w : Nat) : List Byte := tableBytes (max wordRoom ((nbits + 7) / 8)) (w % 2 ^ nbits)

/-- The space of a laid-out table word. -/
def layoutSpace (bytes : List Byte) : Space := spaceOf (bytes.headD 0)

/-- The instruction the decoder reads from a table word, under the opcode map of 30_encoding R81. -/
def decodeTableWord (nbits w : Nat) : Option Instr :=
  match decodeIn defaultOpc (layoutSpace (layoutWord nbits w)) (layoutWord nbits w) with
  | .ok i => some i
  | .error _ => none

/-! ## The encoder -/

/-- Byte 1 of formats F5I and F8I: `adr[15] | clk` in bit 7, `adr[14:8]` below (30_encoding R74, R78). -/
def internalHigh (k : Bool) (a : BitVec 15) : Byte := BitVec.ofBool k ++ a.extractLsb' 8 7

/-- The word of an instruction: a command frame without its CRC byte (30_encoding R73 to R79), a response byte or header
(R83 to R85), or a request (R90, log entry 10). -/
def encode (m : OpcMap) : Instr → List Byte
  | .cmdDmaWrite a sz => m.dmaWrite :: (be24 a ++ be16 sz)
  | .cmdDmaRead a sz => m.dmaRead :: (be24 a ++ be16 sz)
  | .cmdInternalWrite k a dat => m.internalWrite :: internalHigh k a :: a.extractLsb' 0 8 :: be32 dat
  | .cmdInternalRead k a => [m.internalRead, internalHigh k a, a.extractLsb' 0 8, 0]
  | .cmdTerminate => [m.terminate, 0, 0, 0]
  | .cmdRepeat => [m.repeat_, 0, 0, 0]
  | .cmdDmaExtWrite a sz => m.dmaExtWrite :: (be24 a ++ be24 sz)
  | .cmdDmaExtRead a sz => m.dmaExtRead :: (be24 a ++ be24 sz)
  | .cmdSingleWrite a dat => m.singleWrite :: (be24 a ++ be32 dat)
  | .cmdSingleRead a => m.singleRead :: be24 a
  | .cmdReset => [m.reset, 0xFF, 0xFF, 0xFF]
  | .rspEcho o => [o]
  | .rspStatus => [0x00]
  | .dataHdrFirst => [0xF1]
  | .dataHdrMiddle => [0xF2]
  | .dataHdrLast => [0xF3]
  | .dataRspHdr x => [((0xF : BitVec 4) ++ x : BitVec 8)]
  | .crc7Byte c d => [Select.crc7Byte.code, c.setWidth 8, d]
  | .crc7 seed bs => Select.crc7.code :: seed.setWidth 8 :: seqBytes bs
  | .crc7Tx bs => Select.crc7Tx.code :: seqBytes bs
  | .crc7Check bs => Select.crc7Check.code :: seqBytes bs
  | .spiCmd cmd adr dat sz clk => Select.spiCmd.code :: cmd :: (be32 adr ++ be32 dat ++ be32 sz ++ [boolByte clk])
  | .spiCmdRsp cmd => [Select.spiCmdRsp.code, cmd]
  | .spiDataRead buf off size clk => Select.spiDataRead.code :: (be16 buf ++ (natBytes off ++ (be16 size ++ [boolByte clk])))
  | .spiDataWrite buf off size => Select.spiDataWrite.code :: (be16 buf ++ (natBytes off ++ be16 size))
  | .spiReset => [Select.spiReset.code]
  | .xregRd adr => Select.xregRd.code :: be32 adr
  | .xregWr adr dat => Select.xregWr.code :: (be32 adr ++ be32 dat)
  | .xblkRd adr buf off n => Select.xblkRd.code :: (be32 adr ++ be16 buf ++ (natBytes off ++ be16 n))
  | .xblkWr adr buf off n => Select.xblkWr.code :: (be32 adr ++ be16 buf ++ (natBytes off ++ be16 n))
  | .readReg r adr => Select.readReg.code :: (natBytes r ++ be32 adr)
  | .writeReg r adr dat => Select.writeReg.code :: (natBytes r ++ (be32 adr ++ be32 dat))
  | .readBlock r adr buf size => Select.readBlock.code :: (natBytes r ++ (be32 adr ++ be16 buf ++ be32 size))
  | .writeBlock r adr buf size => Select.writeBlock.code :: (natBytes r ++ (be32 adr ++ be16 buf ++ be32 size))
  | .setCrc off => [Select.setCrc.code, boolByte off]
  | .lockAcquire r => Select.lockAcquire.code :: natBytes r
  | .lockRelease r => Select.lockRelease.code :: natBytes r

end Sys2Proof
end

