-- ==== Sys2Proof/Machine/Defaults.lean ====
section
/-! DEFINITION. The configuration at reset: the values of 00_scope R6, the table of 40_crc7 R100, the opcode map of
30_encoding R81, and, for the four OPEN parameters, the values log entry 5 names. No statement rests on those four: every
statement is over the configuration the state carries. -/

namespace Sys2Proof.Machine

/-- Rows `00` to `38` of the table of 40_crc7 R100. -/
def crc7Rows0 : List Crc :=
  [0x00, 0x09, 0x12, 0x1b, 0x24, 0x2d, 0x36, 0x3f,
   0x48, 0x41, 0x5a, 0x53, 0x6c, 0x65, 0x7e, 0x77,
   0x19, 0x10, 0x0b, 0x02, 0x3d, 0x34, 0x2f, 0x26,
   0x51, 0x58, 0x43, 0x4a, 0x75, 0x7c, 0x67, 0x6e,
   0x32, 0x3b, 0x20, 0x29, 0x16, 0x1f, 0x04, 0x0d,
   0x7a, 0x73, 0x68, 0x61, 0x5e, 0x57, 0x4c, 0x45,
   0x2b, 0x22, 0x39, 0x30, 0x0f, 0x06, 0x1d, 0x14,
   0x63, 0x6a, 0x71, 0x78, 0x47, 0x4e, 0x55, 0x5c]

/-- Rows `40` to `78`. -/
def crc7Rows1 : List Crc :=
  [0x64, 0x6d, 0x76, 0x7f, 0x40, 0x49, 0x52, 0x5b,
   0x2c, 0x25, 0x3e, 0x37, 0x08, 0x01, 0x1a, 0x13,
   0x7d, 0x74, 0x6f, 0x66, 0x59, 0x50, 0x4b, 0x42,
   0x35, 0x3c, 0x27, 0x2e, 0x11, 0x18, 0x03, 0x0a,
   0x56, 0x5f, 0x44, 0x4d, 0x72, 0x7b, 0x60, 0x69,
   0x1e, 0x17, 0x0c, 0x05, 0x3a, 0x33, 0x28, 0x21,
   0x4f, 0x46, 0x5d, 0x54, 0x6b, 0x62, 0x79, 0x70,
   0x07, 0x0e, 0x15, 0x1c, 0x23, 0x2a, 0x31, 0x38]

/-- Rows `80` to `b8`. -/
def crc7Rows2 : List Crc :=
  [0x41, 0x48, 0x53, 0x5a, 0x65, 0x6c, 0x77, 0x7e,
   0x09, 0x00, 0x1b, 0x12, 0x2d, 0x24, 0x3f, 0x36,
   0x58, 0x51, 0x4a, 0x43, 0x7c, 0x75, 0x6e, 0x67,
   0x10, 0x19, 0x02, 0x0b, 0x34, 0x3d, 0x26, 0x2f,
   0x73, 0x7a, 0x61, 0x68, 0x57, 0x5e, 0x45, 0x4c,
   0x3b, 0x32, 0x29, 0x20, 0x1f, 0x16, 0x0d, 0x04,
   0x6a, 0x63, 0x78, 0x71, 0x4e, 0x47, 0x5c, 0x55,
   0x22, 0x2b, 0x30, 0x39, 0x06, 0x0f, 0x14, 0x1d]

/-- Rows `c0` to `f8`. -/
def crc7Rows3 : List Crc :=
  [0x25, 0x2c, 0x37, 0x3e, 0x01, 0x08, 0x13, 0x1a,
   0x6d, 0x64, 0x7f, 0x76, 0x49, 0x40, 0x5b, 0x52,
   0x3c, 0x35, 0x2e, 0x27, 0x18, 0x11, 0x0a, 0x03,
   0x74, 0x7d, 0x66, 0x6f, 0x50, 0x59, 0x42, 0x4b,
   0x17, 0x1e, 0x05, 0x0c, 0x33, 0x3a, 0x21, 0x28,
   0x5f, 0x56, 0x4d, 0x44, 0x7b, 0x72, 0x69, 0x60,
   0x0e, 0x07, 0x1c, 0x15, 0x2a, 0x23, 0x38, 0x31,
   0x46, 0x4f, 0x54, 0x5d, 0x62, 0x6b, 0x70, 0x79]

/-- `CRC7_TABLE` (40_crc7 R100). -/
def defaultTable : List Crc := crc7Rows0 ++ crc7Rows1 ++ crc7Rows2 ++ crc7Rows3

/-- The configuration at reset. The values of R6; `MAX_TRX_SZ`, `TRX_OVERHEAD`, `M2M_ERR_BUS_FAIL` and `NREQ` are OPEN
there and DESIGN CHOICE here (log entry 5). -/
def defaultCfg : Cfg where
  crc7Seed := 0x7F
  crc7Table := defaultTable
  rspRetry := 10
  opRetry := 10
  dataPktSz := 8192
  maxTrxSz := 24
  trxOverhead := 8
  opc := defaultOpc
  clocklessRdMax := 0xFF
  clocklessWrMax := 0x30
  success := 0
  errBusFail := 0xFA
  nreq := 1

end Sys2Proof.Machine
end

