-- ==== Sys2Proof/Machine/State.lean ====
section
/-! DEFINITION. The state: every element of 10_state R20, the configuration it runs under, the host buffers it reads and
writes, and the model's own bookkeeping. Plain data throughout. -/

namespace Sys2Proof.Machine

/-- The host buffers' bytes (20_memory R51): byte `off` of buffer `buf` at key `off * 2^16 + buf`, keys strictly rising.
A byte not listed is one the model gives no value: every read of it is a fresh draw (log entry 8). -/
abbrev Memory := List Host.Cell

/-- The bus mutex (10_state R26). -/
inductive Lock
  | free
  | held (r : Nat)
deriving DecidableEq, Repr

/-- Failure causes (60_exceptions R221); labels of the model, never seen by the host. -/
inductive Cause
  /-- 1: `cmd` is none of the eleven opcodes -/
  | badCommand (cmd : Byte)
  /-- 2: a transport call returned `err`; the burst's index in `H`, counting from 0 (log entry 30) -/
  | transportError (idx : Nat)
  /-- 3: every echo read differed from `cmd`; `cmd`, last byte read -/
  | echoTimeout (cmd last : Byte)
  /-- 4: every status read was non-zero; `cmd`, last byte read -/
  | statusTimeout (cmd last : Byte)
  /-- 5: no header read had `0xF` in bits 7:4; last byte read -/
  | dataRspTimeout (last : Byte)
  /-- 6: every attempt failed; returned by `RETRY` as `M2M_ERR_BUS_FAIL`, not raised -/
  | retryExhausted
deriving DecidableEq, Repr

/-- The events of the history (10_state R29). -/
inductive Event
  /-- `W(s, ok)` and `W(s, err)` -/
  | w (bs : List Byte) (ok : Bool)
  /-- `R(n, s)` and `R(n, err)` -/
  | r (n : Nat) (ans : Option (List Byte))
  /-- `ACQ(r)` -/
  | acq (r : Nat)
  /-- `REL(r)` -/
  | rel (r : Nat)
deriving DecidableEq, Repr

/-- What an operation gives its requester (00_scope R10, 30_encoding R88). -/
inductive Result
  /-- returned, with no result: `SPI_RESET`, `SET_CRC`, `LOCK_ACQUIRE`, `LOCK_RELEASE` -/
  | done
  /-- `ok` of layers T and X -/
  | ok
  /-- `ok` with a 32-bit value: `XREG_RD` -/
  | okWord (v : Word)
  /-- `fail`, with the model's cause -/
  | fail (c : Cause)
  /-- a layer-B code -/
  | code (c : Code)
  /-- a layer-B code with a value, which is absent when the code is not success (44_bus R191) -/
  | codeWord (c : Code) (v : Option Word)
  /-- 7 bits: `CRC7_BYTE`, `CRC7` -/
  | crc (v : Crc)
  /-- a byte: `CRC7_TX` -/
  | byte (b : Byte)
  /-- 1 bit: `CRC7_CHECK` -/
  | bit (b : Bool)
deriving DecidableEq, Repr

/-- One answer of the transport (10_state R30): `err`, or `ok` with the bytes of a read (log entries 2, 3). -/
inductive Answer
  | err
  | good (bs : List Byte)
deriving DecidableEq, Repr

/-- A request pending at the request port (92 D1): who asks, and the word (log entry 10). -/
structure Request where
  who : Nat
  space : Space
  word : List Byte
deriving DecidableEq, Repr

/-- A block operation in progress: `READ_BLOCK` or `WRITE_BLOCK` with the operands its requester passed, which are the
requester's own (60_exceptions R230), and its position in the chunk loop, which is the sequencer's (10_state R24): how many
chunks are done. It keeps no register: what `ADDR`, `OFF`, `SZ`, `ACC` are before a chunk follows from these (44_bus R196;
log entry 15). -/
structure BlockOp where
  write : Bool
  buf : BufId
  adr : Word
  size : Word
  chunk : Nat
deriving DecidableEq, Repr

/-- Where the sequencer stands in a requester's operation between two steps (10_state R24, log entry 1). At either position the
operation waits for the lock before its next bus event (44_bus R190). -/
inductive SeqPos
  /-- the operation stands at its beginning -/
  | waiting (i : Instr)
  /-- a block operation stands before its next chunk -/
  | block (b : BlockOp)
deriving DecidableEq, Repr

/-- The block operation at this position, if it is one. -/
def SeqPos.block? : SeqPos → Option BlockOp
  | .waiting _ => none
  | .block b => some b

/-- The machine's state. -/
structure State where
  /-- configuration (00_scope R6), changed by nothing -/
  cfg : Cfg
  /-- `CRC_OFF` (10_state R25) -/
  crcOff : Bool
  /-- `LOCK` (R26) -/
  lock : Lock
  /-- `SEQ` (R24): the requesters with an operation in progress, each with its position; empty is `IDLE` -/
  seqs : List (Nat × SeqPos)
  /-- `H` (R29) -/
  h : List Event
  /-- `CRC` (R21) -/
  crc : Crc
  /-- `CB[0..8]` (R22) -/
  cb : List Byte
  /-- `CBLEN` (R22), 4 bits, values 0 to 9 -/
  cbLen : BitVec 4
  /-- `RSP` (R23) -/
  rsp : Byte
  /-- `CMD` (R27) -/
  cmd : Byte
  /-- `CLK` (R27) -/
  clk : Bool
  /-- `RK` (R27), 4 bits (log entry 24) -/
  rk : BitVec 4
  /-- `ATT` (R27), 4 bits (log entry 24) -/
  att : BitVec 4
  /-- `IX` (R27) -/
  ix : BitVec 16
  /-- `REM` (R27) -/
  rem : BitVec 16
  /-- `NB` (R27), 14 bits (log entry 24) -/
  nb : BitVec 14
  /-- `ORDER` (R27) -/
  order : BitVec 2
  /-- `ADDR` (R27) -/
  addr : Word
  /-- `OFF` (R27) -/
  off : Word
  /-- `SZ` (R27) -/
  sz : Word
  /-- `ACC` (R27, 44_bus R197) -/
  acc : Code
  /-- `tmp` of 43_transactions R171, four bytes inside the block (log entry 17) -/
  tmp : List Byte
  /-- host buffers' bytes (20_memory R51) -/
  mem : Memory
  /-- host buffers' lengths, where the host has declared one (R51, log entry 9) -/
  bufLens : List (Nat × Nat)
  /-- the model's: requests pending at the request port -/
  port : List Request
  /-- the model's: the requester whose step this is (log entry 13) -/
  issuer : Nat
  /-- the model's: scripted scheduling choices (log entry 14) -/
  sched : List Nat
  /-- the model's: scripted transport answers (log entry 2) -/
  oracle : List Answer
  /-- the model's: how many free values have been drawn (log entry 2) -/
  draws : Nat
  /-- the model's: results given, oldest first, each with its requester (log entry 19) -/
  results : List (Nat × Result)
deriving DecidableEq, Repr

/-- Faults: none. The block has no traps: every abnormal condition of 60_exceptions R220, R221 is a failure, which is the
result of an operation in a next state (log entry 25). -/
inductive Fault
deriving DecidableEq, Repr

/-- Refusals: requests to which the spec gives no meaning. All are safe: nothing is claimed of such a run. -/
inductive Refusal
  /-- raised by the dispatcher for an instruction not yet modelled; safe -/
  | notModelled (mnemonic : String)
  /-- raised by every operation under an ill-formed configuration (00_scope R7, 93 U3); safe -/
  | illFormedConfig
  /-- raised by an operation of size 0 (42_spi_data R153, 93 U2); safe -/
  | sizeZero
  /-- raised by an operation on a buffer shorter than it needs (20_memory R51); safe -/
  | bufferTooShort
  /-- raised by an operation on a buffer that another requester's block operation is using (70_reset R258, 93 U21); safe -/
  | bufferInUse
  /-- raised by a layer-T or layer-X operation of a requester that does not hold the lock (70_reset R253, 44_bus R190, 93 U7); safe -/
  | lockNotHeld
  /-- raised by `LOCK_RELEASE` of a requester that does not hold the lock (44_bus R190, 93 U5); safe -/
  | releaseByNonHolder
  /-- raised by `SET_CRC` while another requester holds the lock (44_bus R198, 93 U8); safe -/
  | lockHeldByOther
  /-- raised by an operation of a requester number outside `0 .. NREQ-1` (10_state R26, log entry 26); safe -/
  | noSuchRequester
  /-- raised by an operation of a requester whose last operation is still in progress (log entry 26); safe -/
  | requesterBusy
  /-- raised by a step whose request names another requester than the one that asks (log entry 13); safe -/
  | requesterMismatch
  /-- raised by a step whose request is no instruction, a select code outside the table among them (30_encoding R90, 93 U4); safe -/
  | noInstruction (e : DecodeError)
deriving DecidableEq, Repr

/-- The state right after block reset (10_state R33, 70_reset R250): `CRC_OFF = 0`, `LOCK = free`, `SEQ = IDLE`, `H`
empty. The transient registers hold the zeros of log entry 4, the configuration is that of log entry 5. -/
def State.reset : State where
  cfg := defaultCfg
  crcOff := false
  lock := .free
  seqs := []
  h := []
  crc := 0
  cb := [0, 0, 0, 0, 0, 0, 0, 0, 0]
  cbLen := 0
  rsp := 0
  cmd := 0
  clk := false
  rk := 0
  att := 0
  ix := 0
  rem := 0
  nb := 0
  order := 0
  addr := 0
  off := 0
  sz := 0
  acc := 0
  tmp := [0, 0, 0, 0]
  mem := []
  bufLens := []
  port := []
  issuer := 0
  sched := []
  oracle := []
  draws := 0
  results := []

end Sys2Proof.Machine
end

