-- ==== Sys2Proof/Machine/Flags.lean ====
section
/-! DEFINITION. What steers control (10_state R28): there are no condition codes; the mode flag `CRC_OFF`, the lock, the
comparisons of a response byte, and the write-order code. -/

namespace Sys2Proof.Machine

/-- A response header is accepted when its bits 7:4 are `0xF`; bits 3:0 are ignored (30_encoding R85). -/
def isDataHeader (b : Byte) : Bool := decide (b.extractLsb' 4 4 = 0xF)

/-- A read data frame has a trailer when `CRC_OFF = 0` and the transaction is not clockless (42_spi_data R150). -/
def readTrailer (crcOff clk : Bool) : Bool := !crcOff && !clk

/-- A write data frame has a trailer when `CRC_OFF = 0` (R151). -/
def writeTrailer (crcOff : Bool) : Bool := !crcOff

/-- The write-order code of a data frame (R151): 3 for the last or only frame, 1 for the first of several, else 2. -/
def orderOf (pkt ix rem : Nat) : BitVec 2 := if rem ≤ pkt then 3 else if ix = 0 then 1 else 2

/-- The header byte of a write data frame, `0xF0 | ORDER` (30_encoding R84). -/
def headerByte (order : BitVec 2) : Byte := 0xF0 ||| order.setWidth 8

/-- Requester `r` may run operations of layers T and X: it holds the lock (44_bus R190), or the lock is free and there is
only one requester (70_reset R253). -/
def State.mayDrive (s : State) (r : Nat) : Bool :=
  decide (s.lock = .held r) || (decide (s.lock = .free) && decide (s.cfg.nreq ≤ 1))

/-- Another requester than `r` holds the lock (44_bus R198). -/
def State.heldByOther (s : State) (r : Nat) : Bool :=
  match s.lock with
  | .free => false
  | .held q => decide (q ≠ r)

end Sys2Proof.Machine
end

