-- ==== Sys2Proof/Machine/Memory.lean ====
section
/-! DEFINITION. The host buffers' bytes (20_memory R51): a list of cells with keys strictly rising. A key not listed has no
value the model gives; reading it draws a fresh free value (93 U11, log entry 8), so every list of rising keys is canonical. -/

namespace Sys2Proof.Machine

/-- The canonical form: keys strictly rising. -/
abbrev Memory.wf (m : Memory) : Prop := m.Pairwise (fun x y => x.1 < y.1)

/-- The key of byte `off` of a host buffer: an offset has no bound (00_scope R8), a name has 16 bits. -/
def bufKey (buf : BufId) (off : Nat) : Nat := off * 2 ^ 16 + buf.toNat

/-- The value a byte of a host buffer holds, if it holds one. -/
def Memory.get? (m : Memory) (buf : BufId) (off : Nat) : Option Byte := m.lookup (bufKey buf off)

/-- Write one byte. -/
def Memory.set : Memory → Nat → Byte → Memory
  | [], a, b => [(a, b)]
  | (k, v) :: rest, a, b =>
    if a < k then (a, b) :: (k, v) :: rest
    else if a = k then (a, b) :: rest
    else (k, v) :: Memory.set rest a b

/-- Write consecutive bytes of a buffer (`BufWrite`, 00_scope R9). -/
def Memory.writeRun : Memory → BufId → Nat → List Byte → Memory
  | m, _, _, [] => m
  | m, buf, off, b :: bs => Memory.writeRun (m.set (bufKey buf off) b) buf (off + 1) bs

/-- A key is that of one of the `n` bytes of a buffer from `off` on. -/
def inRegion (buf : BufId) (off n key : Nat) : Bool :=
  decide (key % 2 ^ 16 = buf.toNat) && decide (off ≤ key / 2 ^ 16) && decide (key / 2 ^ 16 < off + n)

/-- Take the value from `n` consecutive bytes: from now on every read of them is a draw (60_exceptions R224). -/
def Memory.forget (m : Memory) (buf : BufId) (off n : Nat) : Memory := m.filter (fun c => !inRegion buf off n c.1)

/-- Read `n` consecutive bytes of a buffer (`BufRead`, 00_scope R9), drawing a free value for each byte that holds none; `d`
is the draw counter, returned as it stands after. -/
def Memory.readRun (m : Memory) (buf : BufId) : Nat → Nat → Nat → List Byte × Nat
  | 0, _, d => ([], d)
  | n + 1, off, d =>
    match m.get? buf off with
    | some b => (b :: (Memory.readRun m buf n (off + 1) d).1, (Memory.readRun m buf n (off + 1) d).2)
    | none => (Config.freeByte d :: (Memory.readRun m buf n (off + 1) (d + 1)).1, (Memory.readRun m buf n (off + 1) (d + 1)).2)

/-- The `n` bytes a buffer holds from `off` on, where they all have a value. -/
def Memory.known? (m : Memory) (buf : BufId) : Nat → Nat → Option (List Byte)
  | 0, _ => some []
  | n + 1, off =>
    match m.get? buf off, Memory.known? m buf n (off + 1) with
    | some b, some bs => some (b :: bs)
    | _, _ => none

/-- A host buffer is declared to be shorter than `len` bytes (20_memory R51). The block knows no other bound: a buffer of
which the host declared no length is as long as an operation needs (log entry 9). -/
def State.bufShort (s : State) (buf : BufId) (len : Nat) : Bool :=
  match s.bufLens.lookup buf.toNat with
  | some l => decide (l < len)
  | none => false

end Sys2Proof.Machine
end

