-- ==== Sys2Proof/Machine/Operands.lean ====
section
/-! DEFINITION. Operand forms: the payload layouts of the seven frame formats (30_encoding R72 to R79, R82), the register
operations' choice of command (43_transactions R171, R172), the assembly of a register value (20_memory R53), the chunk
size (44_bus R193). -/

namespace Sys2Proof.Machine

/-- `NPAY(cmd)` (30_encoding R72). -/
def npay : CmdName → Nat
  | .singleRead => 3
  | .internalRead => 3
  | .terminate => 3
  | .repeat_ => 3
  | .reset => 3
  | .dmaWrite => 5
  | .dmaRead => 5
  | .dmaExtWrite => 6
  | .dmaExtRead => 6
  | .internalWrite => 6
  | .singleWrite => 7

/-- `adr[23:16], adr[15:8], adr[7:0]` (R73, R76, R77, R79). -/
def low24 (v : Word) : List Byte := be24 (v.extractLsb' 0 24)

/-- `sz[15:8], sz[7:0]` (R76). -/
def low16 (v : Word) : List Byte := be16 (v.extractLsb' 0 16)

/-- `adr[15:8] | (clk << 7)`: the flag is or-ed, it does not replace bit 15 (R74, R78). -/
def internalByte (adr : Word) (clk : Bool) : Byte := adr.extractLsb' 8 8 ||| (if clk then 0x80 else 0x00)

/-- `payload(cmd, adr, dat, sz, clk)` (41_spi_command R121 to R131). Operands a format does not use are ignored. -/
def payload (c : CmdName) (adr dat sz : Word) (clk : Bool) : List Byte :=
  match c with
  | .singleRead => low24 adr
  | .internalRead => [internalByte adr clk, adr.extractLsb' 0 8, 0x00]
  | .terminate => [0x00, 0x00, 0x00]
  | .repeat_ => [0x00, 0x00, 0x00]
  | .reset => [0xFF, 0xFF, 0xFF]
  | .dmaWrite => low24 adr ++ low16 sz
  | .dmaRead => low24 adr ++ low16 sz
  | .dmaExtWrite => low24 adr ++ low24 sz
  | .dmaExtRead => low24 adr ++ low24 sz
  | .internalWrite => [internalByte adr clk, adr.extractLsb' 0 8] ++ be32 dat
  | .singleWrite => low24 adr ++ be32 dat

/-- The command and the clockless flag of a register read: the comparison is on all 32 bits, unsigned (R171). -/
def readCommand (c : Cfg) (adr : Word) : CmdName × Bool :=
  if adr ≤ c.clocklessRdMax then (.internalRead, true) else (.singleRead, false)

/-- The command and the clockless flag of a register write (R172). -/
def writeCommand (c : Cfg) (adr : Word) : CmdName × Bool :=
  if adr ≤ c.clocklessWrMax then (.internalWrite, true) else (.singleWrite, false)

/-- Byte `i` of a byte sequence, zero-extended to 32 bits. -/
def byteAt (bs : List Byte) (i : Nat) : Word := (bs.getD i 0).setWidth 32

/-- `d[0] | d[1] << 8 | d[2] << 16 | d[3] << 24` (20_memory R53). -/
def leWord (bs : List Byte) : Word :=
  byteAt bs 0 ||| (byteAt bs 1 <<< 8) ||| (byteAt bs 2 <<< 16) ||| (byteAt bs 3 <<< 24)

/-- The chunk size `C = MAX_TRX_SZ - TRX_OVERHEAD` (44_bus R193). -/
def chunkSize (c : Cfg) : Nat := c.maxTrxSz.toNat - c.trxOverhead.toNat

end Sys2Proof.Machine
end

