-- ==== Sys2Proof/Machine/Ops.lean ====
section
/-! DEFINITION. The shared operations: the pseudocode primitives of 00_scope R9 (`TxWrite`, `TxRead`, `BufRead`, `raise`,
`return`, `call`), free values, the bounded response loop, failure entry (60_exceptions R224), the sequencer, and the guards
a request passes. -/

namespace Sys2Proof.Machine

/-- What a step answers. -/
abbrev Answered := Host.Outcome State Fault Refusal

/-! ## Results of internal operations -/

/-- `ok` with a value, or `fail` with its cause (00_scope R10). -/
inductive Ret (α : Type)
  | ok (a : α)
  | fail (c : Cause)
deriving DecidableEq, Repr

/-- An internal operation of layers G, T and X (00_scope R11): it always ends, and leaves a state. -/
abbrev Op (α : Type) := State → Ret α × State

/-- `return v`. -/
def give {α : Type} (a : α) : Op α := fun s => (.ok a, s)

/-- `raise <Cause>`: the operation stops at once; nothing else is saved or changed (00_scope R9). -/
def raise {α : Type} (c : Cause) : Op α := fun s => (.fail c, s)

/-- `name <- v`. -/
def assign (f : State → State) : Op Unit := fun s => (.ok (), f s)

/-- `call x`, then go on with its value; a failure of `x` ends the whole (43_transactions R171). -/
def andThen {α β : Type} (x : Op α) (f : α → Op β) : Op β := fun s =>
  match x s with
  | (.ok a, t) => f a t
  | (.fail c, t) => (.fail c, t)

/-! ## Free values -/

/-- `n` free bytes from draw `d` on. -/
def freeBytes : Nat → Nat → List Byte
  | 0, _ => []
  | n + 1, d => Config.freeByte d :: freeBytes n (d + 1)

/-- A free 32-bit value: four draws from `d` on. -/
def freeWord (d : Nat) : Word :=
  (Config.freeByte d ++ Config.freeByte (d + 1) ++ Config.freeByte (d + 2) ++ Config.freeByte (d + 3) : BitVec 32)

/-- Count `n` draws. -/
def State.drawn (s : State) (n : Nat) : State := { s with draws := s.draws + n }

/-! ## The history and the transport -/

/-- Append an event to `H` (10_state R29). -/
def State.log (s : State) (e : Event) : State := { s with h := s.h ++ [e] }

/-- The transport's next answer (10_state R30): scripted, else free. -/
def State.answer (s : State) : Answer × State :=
  match s.oracle with
  | a :: rest => (a, { s with oracle := rest })
  | [] => (if Config.freeOk s.draws then .good [] else .err, s.drawn 1)

/-- The `n` bytes an `ok` answer brings: the scripted ones, cut to `n` or filled up with free bytes (log entry 3). -/
def fitBytes (n d : Nat) (bs : List Byte) : List Byte := bs.take n ++ freeBytes (n - bs.length) d

/-- `TxWrite(bs)` (00_scope R9): true when the transport answers `ok`. -/
def txWrite (bs : List Byte) (s : State) : Bool × State :=
  match s.answer with
  | (.good _, t) => (true, t.log (.w bs true))
  | (.err, t) => (false, t.log (.w bs false))

/-- `TxRead(n)` (00_scope R9): the bytes read, or none when the transport answers `err`. -/
def txRead (n : Nat) (s : State) : Option (List Byte) × State :=
  match s.answer with
  | (.good bs, t) =>
    (some (fitBytes n t.draws bs), (t.drawn (n - bs.length)).log (.r n (some (fitBytes n t.draws bs))))
  | (.err, t) => (none, t.log (.r n none))

/-- `TxWrite`, raising `TransportError` on `err`. -/
def sendBurst (bs : List Byte) : Op Unit := fun s =>
  match txWrite bs s with
  | (true, t) => (.ok (), t)
  | (false, t) => (.fail (.transportError s.h.length), t)

/-- `TxRead`, raising `TransportError` on `err`. -/
def readBurst (n : Nat) : Op (List Byte) := fun s =>
  match txRead n s with
  | (some bs, t) => (.ok bs, t)
  | (none, t) => (.fail (.transportError s.h.length), t)

/-- One byte read into `RSP` (10_state R23). -/
def readRsp : Op Byte :=
  andThen (readBurst 1) fun bs => fun s => (.ok (bs.headD 0), { s with rsp := bs.headD 0 })

/-- The response loop of 41_spi_command R134 and 42_spi_data R150, with `k` retries left: read a byte; end when it is the
awaited one; raise when no retry is left; else count the retry in `RK` and read again. -/
def awaitLoop (accept : Byte → Bool) (cause : Byte → Cause) : Nat → Op Unit
  | 0 => andThen readRsp fun b => if accept b then give () else raise (cause b)
  | k + 1 => andThen readRsp fun b =>
      if accept b then give ()
      else andThen (assign fun s => { s with rk := s.rk + 1 }) fun _ => awaitLoop accept cause k

/-- A response loop from its start: `RK <- 0`, at most `RSP_RETRY` retries after the first read (92 D9). -/
def awaitByte (accept : Byte → Bool) (cause : Byte → Cause) : Op Unit := fun s =>
  awaitLoop accept cause s.cfg.rspRetry { s with rk := 0 }

/-! ## Host buffers -/

/-- `BufRead(buf, off, n)` (00_scope R9): bytes without a value are drawn (log entry 8). -/
def bufRead (buf : BufId) (off n : Nat) : Op (List Byte) := fun s =>
  (.ok (s.mem.readRun buf n off s.draws).1, { s with draws := (s.mem.readRun buf n off s.draws).2 })

/-- `BufWrite(buf, off, bs)` (00_scope R9). -/
def State.bufWrite (s : State) (buf : BufId) (off : Nat) (bs : List Byte) : State :=
  { s with mem := s.mem.writeRun buf off bs }

/-- The region holds no reliable value any more (60_exceptions R224, 93 U11). -/
def State.bufForget (s : State) (buf : BufId) (off n : Nat) : State :=
  { s with mem := s.mem.forget buf off n }

/-! ## Failure entry -/

/-- The command buffer and its length without a value (41_spi_command R132): nine free bytes, a free length 0 to 9. -/
def State.voidCommand (s : State) : State :=
  { s with
    cb := freeBytes 9 s.draws
    cbLen := BitVec.ofNat 4 ((Config.freeByte (s.draws + 9)).toNat % 10)
    draws := s.draws + 10 }

/-- After a failed attempt `all transient registers hold no value` (60_exceptions R224): each takes a free value of its
width. An operation around the attempt that goes on reading one of its own puts that one back: `RETRY` its `ATT`, the chunk
loop `ADDR`, `OFF`, `SZ`, `ACC` (log entry 6). -/
def State.voidTransients (s : State) : State :=
  { s with
    crc := (Config.freeByte s.draws).setWidth 7
    cb := freeBytes 9 (s.draws + 1)
    cbLen := BitVec.ofNat 4 ((Config.freeByte (s.draws + 10)).toNat % 10)
    rsp := Config.freeByte (s.draws + 11)
    cmd := Config.freeByte (s.draws + 12)
    clk := (Config.freeByte (s.draws + 13)).getLsbD 0
    rk := (Config.freeByte (s.draws + 14)).setWidth 4
    ix := (Config.freeByte (s.draws + 15) ++ Config.freeByte (s.draws + 16) : BitVec 16)
    rem := (Config.freeByte (s.draws + 17) ++ Config.freeByte (s.draws + 18) : BitVec 16)
    nb := (Config.freeByte (s.draws + 19) ++ Config.freeByte (s.draws + 20) : BitVec 16).setWidth 14
    order := (Config.freeByte (s.draws + 21)).setWidth 2
    tmp := freeBytes 4 (s.draws + 22)
    att := (Config.freeByte (s.draws + 26)).setWidth 4
    addr := freeWord (s.draws + 27)
    off := freeWord (s.draws + 31)
    sz := freeWord (s.draws + 35)
    acc := Config.freeByte (s.draws + 39)
    draws := s.draws + 40 }

/-- FAILURE ENTRY, shared by every single-attempt transaction (60_exceptions R224): on a failure the transient registers
lose their values and `lost` says what becomes of the attempt's destination; nothing is saved and control goes nowhere. The
return from it is the next attempt or the final code (R225): `retry`. -/
def attempt {α : Type} (lost : State → State) (x : Op α) : Op α := fun s =>
  match x s with
  | (.ok a, t) => (.ok a, t)
  | (.fail c, t) => (.fail c, lost t.voidTransients)

/-! ## The sequencer -/

/-- Put a requester's position in place of the one it had, requesters rising. -/
def seqInsert : List (Nat × SeqPos) → Nat → SeqPos → List (Nat × SeqPos)
  | [], r, p => [(r, p)]
  | (q, x) :: rest, r, p =>
    if r < q then (r, p) :: (q, x) :: rest
    else if r = q then (r, p) :: rest
    else (q, x) :: seqInsert rest r p

/-- Where requester `r`'s operation stands, if it has one in progress (10_state R24). -/
def State.seqOf (s : State) (r : Nat) : Option SeqPos := s.seqs.lookup r

/-- `SEQ <- p` for requester `r`. -/
def State.setSeq (s : State) (r : Nat) (p : SeqPos) : State := { s with seqs := seqInsert s.seqs r p }

/-- `SEQ <- IDLE` for requester `r`. -/
def State.clearSeq (s : State) (r : Nat) : State := { s with seqs := s.seqs.filter (fun x => decide (x.1 ≠ r)) }

/-! ## Results given -/

/-- Give requester `r` its result. -/
def State.report (s : State) (r : Nat) (res : Result) : State := { s with results := s.results ++ [(r, res)] }

/-- Give `r` the result of an internal operation of layer T or X. -/
def conclude {α : Type} (r : Nat) (res : α → Result) (x : Ret α × State) : State :=
  match x with
  | (.ok a, t) => t.report r (res a)
  | (.fail c, t) => t.report r (.fail c)

/-! ## Guards -/

/-- What every operation of requester `r` passes first: a well-formed configuration (00_scope R7), a requester that exists
(10_state R26) and has no operation in progress (log entry 26). -/
def whenAdmitted (r : Nat) (s : State) (k : Answered) : Answered :=
  if s.cfg.wf = false then .refused .illFormedConfig
  else if s.cfg.nreq ≤ r then .refused .noSuchRequester
  else if (s.seqOf r).isSome then .refused .requesterBusy
  else k

/-- An operation of layer T or X of the issuer: it needs the lock (70_reset R253, 44_bus R190). -/
def withBus (s : State) (k : Answered) : Answered :=
  whenAdmitted s.issuer s (if s.mayDrive s.issuer then k else .refused .lockNotHeld)

/-- Run an operation of layer T or X for the issuer and give it the result. -/
def runBus {α : Type} (s : State) (x : Op α) (res : α → Result) : Answered :=
  withBus s (.next (conclude s.issuer res (x s)))

/-- Another requester's block operation is using the buffer, and one of the two writes it (70_reset R258): a buffer is the whole
array the operand names (20_memory R51), whatever part of it either moves. -/
def State.bufConflict (s : State) (who : Nat) (buf : BufId) (writes : Bool) : Bool :=
  s.seqs.any fun x =>
    decide (x.1 ≠ who) &&
    match x.2.block? with
    | none => false
    | some b => decide (b.buf = buf) && (writes || !b.write)

/-- What an operation on `n` bytes of a host buffer passes: `n >= 1` (42_spi_data R153), a buffer long enough (20_memory
R51), a buffer nobody else's operation is using (70_reset R258). -/
def withBuffer (s : State) (who : Nat) (buf : BufId) (off n : Nat) (writes : Bool) (k : Answered) : Answered :=
  if n = 0 then .refused .sizeZero
  else if s.bufShort buf (off + n) then .refused .bufferTooShort
  else if s.bufConflict who buf writes then .refused .bufferInUse
  else k

end Sys2Proof.Machine
end

