-- ==== Sys2Proof/Machine/Generator.lean ====
section
/-! DEFINITION. The CRC7 generator (40_crc7): `CRC7_BYTE`, `CRC7`, `CRC7_TX`, `CRC7_CHECK`. Layer G asks for no lock (log entry 32) and
cannot fail. -/

namespace Sys2Proof.Machine

/-- One bit of `bitwise` (40_crc7 R100): `t <- c[6] xor d[k]`, shift, subtract the polynomial `0x09` when `t = 1`. -/
def bitStep (c : Crc) (b : Bool) : Crc := if xor (c.getLsbD 6) b then (c <<< 1) ^^^ 0x09 else c <<< 1

/-- `bitwise(c, d)` (40_crc7 R100): the bits of `d` from 7 down to 0. The table is stated equal to it; nothing runs it. -/
def bitwise (c : Crc) (d : Byte) : Crc :=
  [7, 6, 5, 4, 3, 2, 1, 0].foldl (fun acc k => bitStep acc (d.getLsbD k)) c

/-- `idx <- (zext_8(c) << 1) xor d` (40_crc7 R101). -/
def crcIndex (c : Crc) (d : Byte) : Byte := ((c.setWidth 8) <<< 1) ^^^ d

/-- `CRC7_BYTE` on a table (R101). -/
def crcStep (table : List Crc) (c : Crc) (d : Byte) : Crc := table.getD (crcIndex c d).toNat 0

/-- `CRC7` on a table (R102): the bytes in transmission order. -/
def crcOf (table : List Crc) (seed : Crc) (bs : List Byte) : Crc := bs.foldl (crcStep table) seed

/-- The CRC byte of a CRC7 (R103): bits 7:1 are the CRC7, bit 0 is 0. -/
def crcByteOf (v : Crc) : Byte := (v.setWidth 8) <<< 1

/-- `CRC7(CFG.CRC7_SEED, bs)` under a configuration (R102). -/
def Cfg.crcSum (c : Cfg) (bs : List Byte) : Crc := crcOf c.crc7Table c.crc7Seed bs

/-- `CRC7_TX(bs)` under a configuration (R103). -/
def Cfg.crcTx (c : Cfg) (bs : List Byte) : Byte := crcByteOf (Cfg.crcSum c bs)

/-- `CRC7_CHECK(f)` under a configuration (R104): is the last byte the CRC byte of those before it? -/
def Cfg.crcCheck (c : Cfg) (f : List Byte) : Bool := decide (f.getLastD 0 = Cfg.crcTx c f.dropLast)

/-- `CRC7_BYTE(c, d)` (R101). -/
def execCrc7Byte (c : Crc) (d : Byte) (s : State) : Answered :=
  whenAdmitted s.issuer s
    (.next ({ s with crc := crcStep s.cfg.crc7Table c d }.report s.issuer (.crc (crcStep s.cfg.crc7Table c d))))

/-- `CRC7(seed, bs)` (R102). -/
def execCrc7 (seed : Crc) (bs : List Byte) (s : State) : Answered :=
  whenAdmitted s.issuer s
    (.next ({ s with crc := crcOf s.cfg.crc7Table seed bs }.report s.issuer (.crc (crcOf s.cfg.crc7Table seed bs))))

/-- `CRC7_TX(bs)` (R103). -/
def execCrc7Tx (bs : List Byte) (s : State) : Answered :=
  whenAdmitted s.issuer s
    (.next ({ s with crc := Cfg.crcSum s.cfg bs }.report s.issuer (.byte (Cfg.crcTx s.cfg bs))))

/-- `CRC7_CHECK(f)` (R104). The rule's operand has at least 2 bytes, the table's at least 1: one byte is checked against
`CRC7_TX` of the empty sequence; for no byte at all no rule states the bit, and it is free (log entry 21). -/
def execCrc7Check (f : List Byte) (s : State) : Answered :=
  whenAdmitted s.issuer s
    (if f = [] then
      .next (({ s with crc := Cfg.crcSum s.cfg [] }.drawn 1).report s.issuer
        (.bit ((Config.freeByte s.draws).getLsbD 0)))
    else
      .next ({ s with crc := Cfg.crcSum s.cfg f.dropLast }.report s.issuer (.bit (Cfg.crcCheck s.cfg f))))

end Sys2Proof.Machine
end

