-- ==== Sys2Proof/Machine/Command.lean ====
section
/-! DEFINITION. The command framer and the response matcher (41_spi_command): `SPI_CMD`, the eleven commands,
`SPI_CMD_RSP`, and its two phases as the rows `RSP_ECHO` and `RSP_STATUS`. -/

namespace Sys2Proof.Machine

/-- Fill `CB` and `CBLEN` with a frame (10_state R22); the bytes of `CB` above it hold no value, so they are drawn. -/
def State.loadFrame (s : State) (frame : List Byte) : State :=
  { s with
    cb := frame ++ freeBytes (9 - frame.length) s.draws
    cbLen := BitVec.ofNat 4 frame.length
    draws := s.draws + (9 - frame.length) }

/-- `CB` made ready for a frame of these bytes (R120): with the CRC byte when `CRC_OFF = 0`, without it, and without running
the generator (40_crc7 R106), when `CRC_OFF = 1`. -/
def State.buildFrame (s : State) (body : List Byte) : State :=
  if s.crcOff then s.loadFrame body
  else { s with crc := Cfg.crcSum s.cfg body }.loadFrame (body ++ [Cfg.crcTx s.cfg body])

/-- `TxWrite(CB[0 .. CBLEN-1])`, one burst (R120). -/
def sendCommandBuffer : Op Unit := fun s => sendBurst (s.cb.take s.cbLen.toNat) s

/-- `SPI_CMD(cmd, adr, dat, sz, clk)` (R120, R132, R133). -/
def spiCmd (cmd : Byte) (adr dat sz : Word) (clk : Bool) : Op Unit := fun s =>
  match s.cfg.opc.name? cmd with
  | none => (.fail (.badCommand cmd), { s with cmd := cmd, clk := clk }.voidCommand)
  | some c => sendCommandBuffer ({ s with cmd := cmd, clk := clk }.buildFrame (cmd :: payload c adr dat sz clk))

/-- `SPI_CMD` with a command named by `CFG.OPC` (43_transactions R170 to R174). -/
def command (c : CmdName) (adr dat sz : Word) (clk : Bool) : Op Unit := fun s =>
  spiCmd (s.cfg.opc.code c) adr dat sz clk s

/-- The echo phase of `SPI_CMD_RSP` (R134). -/
def echoPhase (cmd : Byte) : Op Unit := awaitByte (fun b => decide (b = cmd)) (fun b => .echoTimeout cmd b)

/-- The status phase of `SPI_CMD_RSP` (R134). -/
def statusPhase (cmd : Byte) : Op Unit := awaitByte (fun b => decide (b = 0)) (fun b => .statusTimeout cmd b)

/-- `SPI_CMD_RSP(cmd)` (R134). -/
def spiCmdRsp (cmd : Byte) : Op Unit := andThen (echoPhase cmd) fun _ => statusPhase cmd

/-! ## Meanings -/

/-- `SPI_CMD` (R120). -/
def execSpiCmd (cmd : Byte) (adr dat sz : Word) (clk : Bool) (s : State) : Answered :=
  runBus s (spiCmd cmd adr dat sz clk) (fun _ => .ok)

/-- `SPI_CMD_RSP` (R134). -/
def execSpiCmdRsp (cmd : Byte) (s : State) : Answered := runBus s (spiCmdRsp cmd) (fun _ => .ok)

/-- `CMD_DMA_WRITE` (R126): `SPI_CMD` with this opcode and the frame's fields (log entry 12, as for the ten below). -/
def execCmdDmaWrite (a : BitVec 24) (sz : BitVec 16) (s : State) : Answered :=
  runBus s (command .dmaWrite (a.setWidth 32) 0 (sz.setWidth 32) false) (fun _ => .ok)

/-- `CMD_DMA_READ` (R127). -/
def execCmdDmaRead (a : BitVec 24) (sz : BitVec 16) (s : State) : Answered :=
  runBus s (command .dmaRead (a.setWidth 32) 0 (sz.setWidth 32) false) (fun _ => .ok)

/-- `CMD_INTERNAL_WRITE` (R130): bit 7 of byte 1 is taken as the clockless flag. -/
def execCmdInternalWrite (k : Bool) (a : BitVec 15) (dat : Word) (s : State) : Answered :=
  runBus s (command .internalWrite (a.setWidth 32) dat 0 k) (fun _ => .ok)

/-- `CMD_INTERNAL_READ` (R122). -/
def execCmdInternalRead (k : Bool) (a : BitVec 15) (s : State) : Answered :=
  runBus s (command .internalRead (a.setWidth 32) 0 0 k) (fun _ => .ok)

/-- `CMD_TERMINATE` (R123). -/
def execCmdTerminate (s : State) : Answered := runBus s (command .terminate 0 0 0 false) (fun _ => .ok)

/-- `CMD_REPEAT` (R124). -/
def execCmdRepeat (s : State) : Answered := runBus s (command .repeat_ 0 0 0 false) (fun _ => .ok)

/-- `CMD_DMA_EXT_WRITE` (R128). -/
def execCmdDmaExtWrite (a sz : BitVec 24) (s : State) : Answered :=
  runBus s (command .dmaExtWrite (a.setWidth 32) 0 (sz.setWidth 32) false) (fun _ => .ok)

/-- `CMD_DMA_EXT_READ` (R129). -/
def execCmdDmaExtRead (a sz : BitVec 24) (s : State) : Answered :=
  runBus s (command .dmaExtRead (a.setWidth 32) 0 (sz.setWidth 32) false) (fun _ => .ok)

/-- `CMD_SINGLE_WRITE` (R131). -/
def execCmdSingleWrite (a : BitVec 24) (dat : Word) (s : State) : Answered :=
  runBus s (command .singleWrite (a.setWidth 32) dat 0 false) (fun _ => .ok)

/-- `CMD_SINGLE_READ` (R121). -/
def execCmdSingleRead (a : BitVec 24) (s : State) : Answered :=
  runBus s (command .singleRead (a.setWidth 32) 0 0 false) (fun _ => .ok)

/-- `CMD_RESET` (R125): the frame alone; the operation with its response is `SPI_RESET`. -/
def execCmdReset (s : State) : Answered := runBus s (command .reset 0 0 0 false) (fun _ => .ok)

/-- `RSP_ECHO` (R83, R134): phase 1 of `SPI_CMD_RSP`. -/
def execRspEcho (o : Byte) (s : State) : Answered := runBus s (echoPhase o) (fun _ => .ok)

/-- `RSP_STATUS` (R83, R134): phase 2 of `SPI_CMD_RSP`; the opcode its cause names is `CMD`'s (log entry 29). -/
def execRspStatus (s : State) : Answered := runBus s (statusPhase s.cmd) (fun _ => .ok)

end Sys2Proof.Machine
end

