-- ==== Sys2Proof/Machine/Data.lean ====
section
/-! DEFINITION. The data framer (42_spi_data): `SPI_DATA_READ`, `SPI_DATA_WRITE`, and the data-frame headers as rows of
their own. The loops take the bytes moved and the bytes still to move as naturals, and keep `IX` and `REM` equal to them;
the fuel is the size, and each turn moves at least one byte. -/

namespace Sys2Proof.Machine

/-- Where a data phase puts what it reads: a host buffer from an offset on, or `tmp` (43_transactions R171). -/
inductive Dest
  | host (buf : BufId) (off : Nat)
  | tmp
deriving DecidableEq, Repr

/-- Put bytes at position `ix` of a destination: `BufWrite(buf, off + IX, bs)` (42_spi_data R150). -/
def Dest.store (d : Dest) (ix : Nat) (bs : List Byte) (s : State) : State :=
  match d with
  | .host buf off => s.bufWrite buf (off + ix) bs
  | .tmp => { s with tmp := s.tmp.take ix ++ bs ++ s.tmp.drop (ix + bs.length) }

/-- The whole destination of a failed read holds no reliable value (R150, 60_exceptions R224). -/
def Dest.lose (d : Dest) (n : Nat) (s : State) : State :=
  match d with
  | .host buf off => s.bufForget buf off n
  | .tmp => { s with tmp := freeBytes 4 s.draws, draws := s.draws + 4 }

/-- Set `IX` and `REM`. -/
def State.setPhase (s : State) (ix rem : Nat) : State := { s with ix := BitVec.ofNat 16 ix, rem := BitVec.ofNat 16 rem }

/-- Wait for a response header (30_encoding R85, 42_spi_data R150). -/
def awaitHeader : Op Unit := awaitByte isDataHeader (fun b => .dataRspTimeout b)

/-- The trailer of a read data frame: read and discarded, not verified (R150). -/
def discardTrailer (clk : Bool) : Op Unit := fun s =>
  if readTrailer s.crcOff clk then andThen (readBurst 2) (fun _ => give ()) s else (.ok (), s)

/-- One data frame in the read direction: header, body of `nb` bytes, trailer (30_encoding R85). -/
def readFrame (d : Dest) (clk : Bool) (ix nb : Nat) : Op Unit :=
  andThen (assign fun s => { s with nb := BitVec.ofNat 14 nb }) fun _ =>
  andThen awaitHeader fun _ =>
  andThen (readBurst nb) fun bs =>
  andThen (assign (d.store ix bs)) fun _ =>
  discardTrailer clk

/-- The data-frame loop of `SPI_DATA_READ` (R150), `ix` bytes moved and `rem` to move. -/
def readFrames (d : Dest) (clk : Bool) : Nat → Nat → Nat → Op Unit
  | 0, _, _ => give ()
  | fuel + 1, ix, rem => fun s =>
    andThen (readFrame d clk ix (min rem s.cfg.dataPktSz)) (fun _ =>
      andThen (assign fun t => t.setPhase (ix + min rem t.cfg.dataPktSz) (rem - min rem t.cfg.dataPktSz)) fun _ => fun t =>
        if rem - min rem t.cfg.dataPktSz = 0 then (.ok (), t)
        else readFrames d clk fuel (ix + min rem t.cfg.dataPktSz) (rem - min rem t.cfg.dataPktSz) t) s

/-- `SPI_DATA_READ` (R150): on a failure the whole destination loses its value. -/
def spiDataRead (d : Dest) (size : Nat) (clk : Bool) : Op Unit := fun s =>
  match readFrames d clk size 0 size (s.setPhase 0 size) with
  | (.ok _, t) => (.ok (), t)
  | (.fail c, t) => (.fail c, d.lose size t)

/-- Send a write header: its own burst (30_encoding R84). -/
def sendHeader (order : BitVec 2) : Op Unit :=
  andThen (assign fun s => { s with order := order }) fun _ => sendBurst [headerByte order]

/-- The trailer of a write data frame: the constant `00 00`, not a CRC of the data (R151). -/
def sendTrailer : Op Unit := fun s => if writeTrailer s.crcOff then sendBurst [0x00, 0x00] s else (.ok (), s)

/-- One data frame in the write direction: header, body, trailer (30_encoding R84). -/
def writeFrame (buf : BufId) (off ix rem nb : Nat) : Op Unit :=
  andThen (assign fun s => { s with nb := BitVec.ofNat 14 nb }) fun _ => fun s =>
    andThen (sendHeader (orderOf s.cfg.dataPktSz ix rem)) (fun _ =>
      andThen (bufRead buf (off + ix) nb) fun bs =>
      andThen (sendBurst bs) fun _ =>
      sendTrailer) s

/-- The data-frame loop of `SPI_DATA_WRITE` (R151), `ix` bytes moved and `rem` to move. -/
def writeFrames (buf : BufId) (off : Nat) : Nat → Nat → Nat → Op Unit
  | 0, _, _ => give ()
  | fuel + 1, ix, rem => fun s =>
    andThen (writeFrame buf off ix rem (min rem s.cfg.dataPktSz)) (fun _ =>
      andThen (assign fun t => t.setPhase (ix + min rem t.cfg.dataPktSz) (rem - min rem t.cfg.dataPktSz)) fun _ => fun t =>
        if rem - min rem t.cfg.dataPktSz = 0 then (.ok (), t)
        else writeFrames buf off fuel (ix + min rem t.cfg.dataPktSz) (rem - min rem t.cfg.dataPktSz) t) s

/-- `SPI_DATA_WRITE` (R151). -/
def spiDataWrite (buf : BufId) (off size : Nat) : Op Unit := fun s =>
  writeFrames buf off size 0 size (s.setPhase 0 size)

/-! ## Meanings -/

/-- `SPI_DATA_READ` (R150, R153). -/
def execSpiDataRead (buf : BufId) (off : Nat) (size : BitVec 16) (clk : Bool) (s : State) : Answered :=
  withBus s (withBuffer s s.issuer buf off size.toNat true
    (.next (conclude s.issuer (fun _ => .ok) (spiDataRead (.host buf off) size.toNat clk s))))

/-- `SPI_DATA_WRITE` (R151, R153). -/
def execSpiDataWrite (buf : BufId) (off : Nat) (size : BitVec 16) (s : State) : Answered :=
  withBus s (withBuffer s s.issuer buf off size.toNat false
    (.next (conclude s.issuer (fun _ => .ok) (spiDataWrite buf off size.toNat s))))

/-- `DATA_HDR_FIRST` (30_encoding R84): the header burst `f1`. -/
def execDataHdrFirst (s : State) : Answered := runBus s (sendHeader 1) (fun _ => .ok)

/-- `DATA_HDR_MIDDLE` (R84): the header burst `f2`. -/
def execDataHdrMiddle (s : State) : Answered := runBus s (sendHeader 2) (fun _ => .ok)

/-- `DATA_HDR_LAST` (R84): the header burst `f3`. -/
def execDataHdrLast (s : State) : Answered := runBus s (sendHeader 3) (fun _ => .ok)

/-- `DATA_RSP_HDR` (R85): wait for a header byte `1111xxxx`; the low nibble of the word is ignored, as that of the byte is. -/
def execDataRspHdr (_x : BitVec 4) (s : State) : Answered := runBus s awaitHeader (fun _ => .ok)

end Sys2Proof.Machine
end

