-- ==== Sys2Proof/Machine/Transaction.lean ====
section
/-! DEFINITION. Bus reset, the four single-attempt transactions and reset-and-retry (43_transactions). -/

namespace Sys2Proof.Machine

/-- `SPI_RESET()` (R170): both sub-operations always run, both results are discarded. -/
def spiReset (s : State) : State :=
  (spiCmdRsp s.cfg.opc.reset (command .reset 0 0 0 false s).2).2

/-- `XREG_RD(adr)` before failure entry (R171). -/
def xregRdTry (adr : Word) : Op Word := fun s =>
  andThen (command (readCommand s.cfg adr).1 adr 0 4 (readCommand s.cfg adr).2) (fun _ =>
    andThen (spiCmdRsp (s.cfg.opc.code (readCommand s.cfg adr).1)) fun _ =>
    andThen (spiDataRead .tmp 4 (readCommand s.cfg adr).2) fun _ => fun t => (.ok (leWord t.tmp), t)) s

/-- `XREG_RD(adr)` (R171). -/
def xregRd (adr : Word) : Op Word := attempt id (xregRdTry adr)

/-- `XREG_WR(adr, dat)` before failure entry (R172). -/
def xregWrTry (adr dat : Word) : Op Unit := fun s =>
  andThen (command (writeCommand s.cfg adr).1 adr dat 4 (writeCommand s.cfg adr).2) (fun _ =>
    spiCmdRsp (s.cfg.opc.code (writeCommand s.cfg adr).1)) s

/-- `XREG_WR(adr, dat)` (R172). -/
def xregWr (adr dat : Word) : Op Unit := attempt id (xregWrTry adr dat)

/-- `XBLK_RD(adr, buf, off, n)` before failure entry (R173). -/
def xblkRdTry (adr : Word) (buf : BufId) (off n : Nat) : Op Unit := fun s =>
  andThen (command .dmaExtRead adr 0 (BitVec.ofNat 32 n) false) (fun _ =>
    andThen (spiCmdRsp s.cfg.opc.dmaExtRead) fun _ =>
    spiDataRead (.host buf off) n false) s

/-- `XBLK_RD(adr, buf, off, n)` (R173): on a failure, wherever it came, the destination region loses its value (60_exceptions
R224). -/
def xblkRd (adr : Word) (buf : BufId) (off n : Nat) : Op Unit :=
  attempt (fun t => t.bufForget buf off n) (xblkRdTry adr buf off n)

/-- `XBLK_WR(adr, buf, off, n)` before failure entry (R174). -/
def xblkWrTry (adr : Word) (buf : BufId) (off n : Nat) : Op Unit := fun s =>
  andThen (command .dmaExtWrite adr 0 (BitVec.ofNat 32 n) false) (fun _ =>
    andThen (spiCmdRsp s.cfg.opc.dmaExtWrite) fun _ =>
    spiDataWrite buf off n) s

/-- `XBLK_WR(adr, buf, off, n)` (R174). -/
def xblkWr (adr : Word) (buf : BufId) (off n : Nat) : Op Unit := attempt id (xblkWrTry adr buf off n)

/-- What follows a failed attempt that began in `s` and ended in `t` (R175): a bus reset, and `RETRY`'s own `ATT` counts it, in
its 4 bits (10_state R27). -/
def afterFailure (s t : State) : State := { spiReset t with att := s.att + 1 }

/-- The attempts of `RETRY` (R175), with `k` left: a failed attempt is followed by a bus reset, the last one too. -/
def retryLoop {α : Type} (x : Op α) : Nat → Op α
  | 0 => raise .retryExhausted
  | k + 1 => fun s =>
    match x s with
    | (.ok a, t) => (.ok a, t)
    | (.fail _, t) => retryLoop x k (afterFailure s t)

/-- How many attempts `RETRY` makes at most: its loop ends when `ATT = OP_RETRY` (R175), after `OP_RETRY` failures (92 D16); with
`OP_RETRY = 0`, when the 4 bits of `ATT` (10_state R27) come back to 0 (log entry 7). -/
def attempts (c : Cfg) : Nat := if c.opRetry = 0 then 2 ^ 4 else c.opRetry

/-- `RETRY(X)` (R175): `ATT <- 0`, then a bounded number of attempts (60_exceptions R225). -/
def retry {α : Type} (x : Op α) : Op α := fun s => retryLoop x (attempts s.cfg) { s with att := 0 }

/-! ## Meanings -/

/-- `SPI_RESET` (R170). -/
def execSpiReset (s : State) : Answered := withBus s (.next ((spiReset s).report s.issuer .done))

/-- `XREG_RD` (R171). -/
def execXregRd (adr : Word) (s : State) : Answered := runBus s (xregRd adr) .okWord

/-- `XREG_WR` (R172). -/
def execXregWr (adr dat : Word) (s : State) : Answered := runBus s (xregWr adr dat) (fun _ => .ok)

/-- `XBLK_RD` (R173). -/
def execXblkRd (adr : Word) (buf : BufId) (off : Nat) (n : BitVec 16) (s : State) : Answered :=
  withBus s (withBuffer s s.issuer buf off n.toNat true
    (.next (conclude s.issuer (fun _ => .ok) (xblkRd adr buf off n.toNat s))))

/-- `XBLK_WR` (R174). -/
def execXblkWr (adr : Word) (buf : BufId) (off : Nat) (n : BitVec 16) (s : State) : Answered :=
  withBus s (withBuffer s s.issuer buf off n.toNat false
    (.next (conclude s.issuer (fun _ => .ok) (xblkWr adr buf off n.toNat s))))

end Sys2Proof.Machine
end

