-- ==== Sys2Proof/Machine/Bus.lean ====
section
/-! DEFINITION. The bus abstraction (44_bus_abstraction): the lock, the register operations, the block operations chunk by
chunk, the mode flag. An operation that finds the lock taken waits: its requester's sequencer keeps it, and the scheduler
may try it again (R190, log entry 14). -/

namespace Sys2Proof.Machine

/-- `LOCK <- held(r)`, `ACQ(r)` (R190). -/
def State.takeLock (s : State) (r : Nat) : State := { s with lock := .held r }.log (.acq r)

/-- `LOCK <- free`, `REL(r)` (R190). -/
def State.dropLock (s : State) (r : Nat) : State := { s with lock := .free }.log (.rel r)

/-- One locked unit (R191 to R195): take the lock, `RETRY(X)`, give it back on every path. -/
def lockedRetry {α : Type} (r : Nat) (x : Op α) : Op α := fun s =>
  ((retry x (s.takeLock r)).1, (retry x (s.takeLock r)).2.dropLock r)

/-- The layer-B code of a retried transaction (43_transactions R175). -/
def codeOf {α : Type} (c : Cfg) : Ret α → Code
  | .ok _ => c.success
  | .fail _ => c.errBusFail

/-- The result of `READ_REG` (R191): the value comes with the success code and with no other. -/
def readResult (c : Cfg) : Ret Word → Result
  | .ok v => .codeWord c.success (some v)
  | .fail _ => .codeWord c.errBusFail none

/-- `READ_REG(r, adr)` (R191) once admitted. -/
def readRegister (r : Nat) (adr : Word) (s : State) : State :=
  if s.lock = .free then
    (lockedRetry r (xregRd adr) s).2.report r (readResult s.cfg (lockedRetry r (xregRd adr) s).1)
  else s.setSeq r (.waiting (.readReg r adr))

/-- `WRITE_REG(r, adr, dat)` (R192) once admitted. -/
def writeRegister (r : Nat) (adr dat : Word) (s : State) : State :=
  if s.lock = .free then
    (lockedRetry r (xregWr adr dat) s).2.report r (.code (codeOf s.cfg (lockedRetry r (xregWr adr dat) s).1))
  else s.setSeq r (.waiting (.writeReg r adr dat))

/-- The bytes a block operation has moved before its next chunk (R196). -/
def BlockOp.moved (b : BlockOp) (c : Cfg) : Nat := chunkSize c * b.chunk

/-- `ADDR` before the next chunk: `(addr + C * (k - 1)) mod 2^32` (R196). -/
def BlockOp.addr (b : BlockOp) (c : Cfg) : Word := b.adr + BitVec.ofNat 32 (b.moved c)

/-- `OFF` before the next chunk: `C * (k - 1)` (R196). -/
def BlockOp.off (b : BlockOp) (c : Cfg) : Word := BitVec.ofNat 32 (b.moved c)

/-- `SZ` before the next chunk: what is still to move (R194). -/
def BlockOp.sz (b : BlockOp) (c : Cfg) : Word := b.size - BitVec.ofNat 32 (b.moved c)

/-- The shared registers at the start of a chunk: `ADDR`, `OFF`, `SZ`, and `ACC`, which is 0 as long as the loop goes on (R194,
R197; log entry 15). -/
def State.loadBlock (s : State) (b : BlockOp) : State :=
  { s with addr := b.addr s.cfg, off := b.off s.cfg, sz := b.sz s.cfg, acc := 0 }

/-- The bytes of the chunk a block operation stands before: `SZ` for the last one, else `C`; the test is `SZ <= C` (R194, R196). -/
def chunkBytes (c : Cfg) (b : BlockOp) : Nat := if (b.sz c).toNat ≤ chunkSize c then (b.sz c).toNat else chunkSize c

/-- The transaction of a chunk: `XBLK_RD` or `XBLK_WR` at `ADDR`, `OFF` (R194, R195). -/
def chunkOp (c : Cfg) (b : BlockOp) : Op Unit :=
  if b.write then xblkWr (b.addr c) b.buf (b.off c).toNat (chunkBytes c b)
  else xblkRd (b.addr c) b.buf (b.off c).toNat (chunkBytes c b)

/-- The block operation before its next chunk: `SZ - C`, `OFF + C`, `(ADDR + C) mod 2^32` (R194). -/
def BlockOp.advance (b : BlockOp) : BlockOp := { b with chunk := b.chunk + 1 }

/-- The end of a block operation (R194, R195): the code is returned; after a failure of a read, the region from the failed
chunk's offset to the end holds no reliable value. -/
def endBlock (r : Nat) (b : BlockOp) (failed : Bool) (s : State) : State :=
  (if failed && !b.write then s.bufForget b.buf (b.off s.cfg).toNat (b.sz s.cfg).toNat else s).report r (.code s.acc)

/-- What follows a chunk (R194, R195), its code added to `ACC`: the operation ends after the last chunk and at the first
non-zero `ACC`, and else stands before the next chunk, the lock free. -/
def afterChunk (r : Nat) (b : BlockOp) (failed : Bool) (s : State) : State :=
  if (b.sz s.cfg).toNat ≤ chunkSize s.cfg ∨ s.acc ≠ 0 then endBlock r b failed s
  else (s.loadBlock b.advance).setSeq r (.block b.advance)

/-- What a block operation does with the unit of a chunk (R194, R195): `ACC <- ACC + code`, and on to what follows the chunk.
The registers the loop goes on reading are its own again: after a failure `ACC` alone, for the loop ends; after a success all
four (log entry 6). -/
def endChunk (r : Nat) (b : BlockOp) (x : Ret Unit × State) : State :=
  match x with
  | (.ok _, t) => afterChunk r b false { t.loadBlock b with acc := 0 + t.cfg.success }
  | (.fail _, t) => afterChunk r b true { t with acc := 0 + t.cfg.errBusFail }

/-- One turn of the chunk loop for requester `r` (R194, R195): if the lock is free the chunk runs as one locked unit; else
the operation waits before it, and nothing but `SEQ` changes. -/
def chunkTurn (r : Nat) (b : BlockOp) (s : State) : State :=
  if s.lock = .free then endChunk r b (lockedRetry r (chunkOp s.cfg b) (s.loadBlock b)) else s.setSeq r (.block b)

/-- A block operation at its start: `ADDR <- addr`, `OFF <- 0`, `SZ <- size`, `ACC <- 0` (R194, R195). -/
def newBlock (write : Bool) (adr : Word) (buf : BufId) (size : Word) : BlockOp :=
  { write := write, buf := buf, adr := adr, size := size, chunk := 0 }

/-! ## Meanings -/

/-- `READ_REG` (R191). -/
def execReadReg (r : Nat) (adr : Word) (s : State) : Answered := whenAdmitted r s (.next (readRegister r adr s))

/-- `WRITE_REG` (R192). -/
def execWriteReg (r : Nat) (adr dat : Word) (s : State) : Answered := whenAdmitted r s (.next (writeRegister r adr dat s))

/-- `READ_BLOCK` (R194): its first chunk; the later ones follow as the scheduler turns to `r`. -/
def execReadBlock (r : Nat) (adr : Word) (buf : BufId) (size : Word) (s : State) : Answered :=
  whenAdmitted r s (withBuffer s r buf 0 size.toNat true (.next (chunkTurn r (newBlock false adr buf size) s)))

/-- `WRITE_BLOCK` (R195): its first chunk. -/
def execWriteBlock (r : Nat) (adr : Word) (buf : BufId) (size : Word) (s : State) : Answered :=
  whenAdmitted r s (withBuffer s r buf 0 size.toNat false (.next (chunkTurn r (newBlock true adr buf size) s)))

/-- `SET_CRC` (R198, 70_reset R256): no transport call; refused while another requester holds the lock. -/
def execSetCrc (off : Bool) (s : State) : Answered :=
  whenAdmitted s.issuer s
    (if s.heldByOther s.issuer then .refused .lockHeldByOther
    else .next ({ s with crcOff := off }.report s.issuer .done))

/-- `LOCK_ACQUIRE` (R190): takes a free lock, else waits; the holder that asks again waits for itself for ever. -/
def execLockAcquire (r : Nat) (s : State) : Answered :=
  whenAdmitted r s
    (.next (if s.lock = .free then (s.takeLock r).report r .done else s.setSeq r (.waiting (.lockAcquire r))))

/-- `LOCK_RELEASE` (R190): only the holder may. -/
def execLockRelease (r : Nat) (s : State) : Answered :=
  whenAdmitted r s (if s.lock = .held r then .next ((s.dropLock r).report r .done) else .refused .releaseByNonHolder)

end Sys2Proof.Machine
end

