-- ==== Sys2Proof/Machine/Dispatch.lean ====
section
/-! DEFINITION. The dispatcher: one arm per constructor of `Instr`, in the opcode table's order. -/

namespace Sys2Proof.Machine

/-- The effect of one instruction. -/
def exec (i : Instr) (s : State) : Host.Outcome State Fault Refusal :=
  match i with
  | .cmdDmaWrite a sz => Sys2Proof.Machine.execCmdDmaWrite a sz s
  | .cmdDmaRead a sz => Sys2Proof.Machine.execCmdDmaRead a sz s
  | .cmdInternalWrite k a dat => Sys2Proof.Machine.execCmdInternalWrite k a dat s
  | .cmdInternalRead k a => Sys2Proof.Machine.execCmdInternalRead k a s
  | .cmdTerminate => Sys2Proof.Machine.execCmdTerminate s
  | .cmdRepeat => Sys2Proof.Machine.execCmdRepeat s
  | .cmdDmaExtWrite a sz => Sys2Proof.Machine.execCmdDmaExtWrite a sz s
  | .cmdDmaExtRead a sz => Sys2Proof.Machine.execCmdDmaExtRead a sz s
  | .cmdSingleWrite a dat => Sys2Proof.Machine.execCmdSingleWrite a dat s
  | .cmdSingleRead a => Sys2Proof.Machine.execCmdSingleRead a s
  | .cmdReset => Sys2Proof.Machine.execCmdReset s
  | .rspEcho o => Sys2Proof.Machine.execRspEcho o s
  | .rspStatus => Sys2Proof.Machine.execRspStatus s
  | .dataHdrFirst => Sys2Proof.Machine.execDataHdrFirst s
  | .dataHdrMiddle => Sys2Proof.Machine.execDataHdrMiddle s
  | .dataHdrLast => Sys2Proof.Machine.execDataHdrLast s
  | .dataRspHdr x => Sys2Proof.Machine.execDataRspHdr x s
  | .crc7Byte c d => Sys2Proof.Machine.execCrc7Byte c d s
  | .crc7 seed bs => Sys2Proof.Machine.execCrc7 seed bs s
  | .crc7Tx bs => Sys2Proof.Machine.execCrc7Tx bs s
  | .crc7Check bs => Sys2Proof.Machine.execCrc7Check bs s
  | .spiCmd cmd adr dat sz clk => Sys2Proof.Machine.execSpiCmd cmd adr dat sz clk s
  | .spiCmdRsp cmd => Sys2Proof.Machine.execSpiCmdRsp cmd s
  | .spiDataRead buf off size clk => Sys2Proof.Machine.execSpiDataRead buf off size clk s
  | .spiDataWrite buf off size => Sys2Proof.Machine.execSpiDataWrite buf off size s
  | .spiReset => Sys2Proof.Machine.execSpiReset s
  | .xregRd adr => Sys2Proof.Machine.execXregRd adr s
  | .xregWr adr dat => Sys2Proof.Machine.execXregWr adr dat s
  | .xblkRd adr buf off n => Sys2Proof.Machine.execXblkRd adr buf off n s
  | .xblkWr adr buf off n => Sys2Proof.Machine.execXblkWr adr buf off n s
  | .readReg r adr => Sys2Proof.Machine.execReadReg r adr s
  | .writeReg r adr dat => Sys2Proof.Machine.execWriteReg r adr dat s
  | .readBlock r adr buf size => Sys2Proof.Machine.execReadBlock r adr buf size s
  | .writeBlock r adr buf size => Sys2Proof.Machine.execWriteBlock r adr buf size s
  | .setCrc off => Sys2Proof.Machine.execSetCrc off s
  | .lockAcquire r => Sys2Proof.Machine.execLockAcquire r s
  | .lockRelease r => Sys2Proof.Machine.execLockRelease r s

end Sys2Proof.Machine
end

