-- ==== Sys2Proof/Machine/Fetch.lean ====
section
/-! DEFINITION. How a step finds what to run: the scheduler's choice of a requester (60_exceptions R230) and the request port
(30_encoding R90). The block has no program counter and fetches no instruction (10_state R24). -/

namespace Sys2Proof.Machine

/-- The requester that moves next: a scripted choice, else the only requester, else a free choice (44_bus R190, 93 U16,
log entry 14). -/
def State.turn (s : State) : Nat × State :=
  match s.sched with
  | q :: rest => (q, { s with sched := rest })
  | [] => if s.cfg.nreq ≤ 1 then (0, s) else (Config.freeTurn s.draws % s.cfg.nreq, s.drawn 1)

/-- The first request of requester `q` and the port without it. -/
def takeRequest (q : Nat) : List Request → Option (Request × List Request)
  | [] => none
  | x :: rest =>
    if x.who = q then some (x, rest)
    else
      match takeRequest q rest with
      | some (y, ys) => some (y, x :: ys)
      | none => none

/-- What a requester with no operation in progress has to run. -/
inductive Fetched
  /-- no request of this requester is pending -/
  | nothing
  /-- the word is no instruction (30_encoding R90, 93 U4) -/
  | bad (e : DecodeError)
  /-- the operation names another requester (log entry 13) -/
  | foreign
  /-- an instruction, and the state with the request taken from the port -/
  | run (i : Instr) (t : State)

/-- An instruction is requester `q`'s to issue: it names no requester, or it names `q` (44_bus R190; log entry 13). -/
def issuedBy (q : Nat) (i : Instr) : Bool :=
  match i.requester? with
  | none => true
  | some r => decide (r = q)

/-- Take requester `q`'s next request from the port and decode it under `CFG.OPC`. -/
def State.fetch (s : State) (q : Nat) : Fetched :=
  match takeRequest q s.port with
  | none => .nothing
  | some (x, rest) =>
    match decodeIn s.cfg.opc x.space x.word with
    | .error e => .bad e
    | .ok i => if issuedBy q i then .run i { s with port := rest, issuer := q } else .foreign

/-- Go on with requester `q`'s operation in progress: its position is taken from the sequencer. -/
def State.resume (s : State) (q : Nat) : State := { s.clearSeq q with issuer := q }

/-- Who asks for a table word: the requester it names, else the issuer. -/
def wordIssuer (s : State) (nbits w : Nat) : Nat :=
  match decodeTableWord nbits w with
  | some i => i.requester?.getD s.issuer
  | none => s.issuer

end Sys2Proof.Machine
end

