-- ==== Sys2Proof/Machine/Step.lean ====
section
/-! DEFINITION. One step: the scheduler's requester goes on with its operation in progress (it tries again for the lock, or runs
its next chunk), or issues its next request, or has nothing to do. A step is at most one locked unit (10_state R24 (b),
20_memory R57; log entry 1). -/

namespace Sys2Proof.Machine

/-- One step of requester `q`. -/
def stepOf (q : Nat) (s : State) : Host.Outcome State Fault Refusal :=
  match s.seqOf q with
  | some (.waiting i) => exec i (s.resume q)
  | some (.block b) => .next (chunkTurn q b (s.resume q))
  | none =>
    match s.fetch q with
    | .nothing => .next s
    | .bad e => .refused (.noInstruction e)
    | .foreign => .refused .requesterMismatch
    | .run i t => exec i t

/-- One step of the machine. -/
def step (s : State) : Host.Outcome State Fault Refusal :=
  if s.cfg.wf = false then .refused .illFormedConfig else stepOf s.turn.1 s.turn.2

/-- A table word placed as the next request: first at the port, in the name of the requester it names (else the issuer's),
that requester idle and next to move. It stands for the host's placing a request (log entry 20). -/
def State.withFetchWord (s : State) (nbits w : Nat) : State :=
  { s with
    port := ⟨wordIssuer s nbits w, layoutSpace (layoutWord nbits w), layoutWord nbits w⟩ :: s.port
    sched := wordIssuer s nbits w :: s.sched
    seqs := s.seqs.filter (fun x => decide (x.1 ≠ wordIssuer s nbits w)) }

end Sys2Proof.Machine
end

