-- ==== Sys2Proof/Safety.lean ====
section
/-! DEFINITION. The terms claims are stated in: bursts, histories that are legal for the lock, the invariant of the machine,
what it is to be over or stuck, and the conditions under which a request is admitted. -/

namespace Sys2Proof.Machine

/-- A transport event (10_state R29), as opposed to a lock event. -/
def Event.isBurst : Event → Bool
  | .w _ _ => true
  | .r _ _ => true
  | .acq _ => false
  | .rel _ => false

/-- The lock after one event, if the event is legal there: only a free lock is taken and only by its holder given back (44_bus
R190), and with more than one requester a burst needs the lock held (70_reset R253). -/
def lockNext (nreq : Nat) (l : Option Lock) (e : Event) : Option Lock :=
  match l, e with
  | some .free, .acq r => some (.held r)
  | some (.held q), .rel r => if r = q then some .free else none
  | some .free, .w _ _ => if nreq ≤ 1 then some .free else none
  | some .free, .r _ _ => if nreq ≤ 1 then some .free else none
  | some (.held q), .w _ _ => some (.held q)
  | some (.held q), .r _ _ => some (.held q)
  | some .free, .rel _ => none
  | some (.held _), .acq _ => none
  | none, _ => none

/-- The lock after a history that began with a free lock, if the history is legal: a concatenation of whole locked units
(20_memory R62). -/
def lockOf (nreq : Nat) (h : List Event) : Option Lock := h.foldl (lockNext nreq) (some .free)

/-- An operation that waits for the lock on behalf of requester `r` (44_bus R190 to R192). -/
def waitsFor (r : Nat) (i : Instr) : Prop := (∃ adr, i = .readReg r adr) ∨ (∃ adr dat, i = .writeReg r adr dat) ∨ i = .lockAcquire r

/-- A position of requester `r` makes sense: it waits with an operation of its own that needs the lock, or a block operation has
bytes to move. -/
def SeqPos.sound (c : Cfg) (r : Nat) : SeqPos → Prop
  | .waiting i => waitsFor r i
  | .block b => chunkSize c * b.chunk < b.size.toNat

/-- The machine's invariant: the history is legal and accounts for the lock; the buffers' bytes are in canonical form; the
command buffer and `tmp` have their sizes; the sequencer holds one sound position per requester that exists. -/
structure State.Sound (s : State) : Prop where
  history : lockOf s.cfg.nreq s.h = some s.lock
  memory : s.mem.wf
  commandBuffer : s.cb.length = 9 ∧ s.cbLen.toNat ≤ 9
  temporary : s.tmp.length = 4
  rising : s.seqs.Pairwise (fun x y => x.1 < y.1)
  positions : ∀ x ∈ s.seqs, x.1 < s.cfg.nreq ∧ x.2.sound s.cfg x.1

/-- A run is over: no operation in progress and the lock free (70_reset R267). -/
abbrev State.over (s : State) : Prop := s.seqs = [] ∧ s.lock = .free

/-- Requester `r` waits for itself: it holds the lock, and its operation in progress waits for the lock (93 U6). -/
abbrev State.selfDeadlock (s : State) (r : Nat) : Prop := s.lock = .held r ∧ (s.seqOf r).isSome = true

/-- Requester `r` may issue an operation: the configuration is well-formed, `r` exists, and has nothing in progress. -/
abbrev State.admits (s : State) (r : Nat) : Prop := s.cfg.wf = true ∧ r < s.cfg.nreq ∧ s.seqOf r = none

/-- The issuer may run operations of layers T and X. -/
abbrev State.onBus (s : State) : Prop := s.admits s.issuer ∧ s.mayDrive s.issuer = true

/-- `n` bytes of a buffer from `off` on may be used by requester `who`. -/
abbrev State.bufferReady (s : State) (who : Nat) (buf : BufId) (off n : Nat) (writes : Bool) : Prop :=
  1 ≤ n ∧ s.bufShort buf (off + n) = false ∧ s.bufConflict who buf writes = false

/-- What no operation of layers G, T or X changes, failed or not: configuration, mode, lock, sequencer, host buffers' lengths,
the request port and the scheduler. -/
structure State.SameOutside (s t : State) : Prop where
  cfg : t.cfg = s.cfg
  crcOff : t.crcOff = s.crcOff
  lock : t.lock = s.lock
  seqs : t.seqs = s.seqs
  bufLens : t.bufLens = s.bufLens
  port : t.port = s.port
  issuer : t.issuer = s.issuer
  sched : t.sched = s.sched

/-! ## The bytes and events the rules speak of, written without the operations -/

/-- A command frame (30_encoding R71, R80): the opcode and payload bytes, and their CRC byte when `CRC_OFF = 0`. -/
def frameBytes (c : Cfg) (crcOff : Bool) (body : List Byte) : List Byte :=
  if crcOff then body else body ++ [Cfg.crcTx c body]

/-- The answer of the transport that an event records; a lock event asks for none. -/
def answerOf : Event → Option Answer
  | .w _ true => some (.good [])
  | .w _ false => some .err
  | .r _ (some bs) => some (.good bs)
  | .r _ none => some .err
  | .acq _ => none
  | .rel _ => none

/-- The oracle's answers to a command frame accepted at once: sent, echoed, zero status. -/
def commandAnswers (opcode : Byte) : List Answer := [.good [], .good [opcode], .good [0x00]]

/-- How many data frames a data phase of `n` bytes has: `ceil(n / DATA_PKT_SZ)` (42_spi_data R152). -/
def frameCount (c : Cfg) (n : Nat) : Nat := (n + c.dataPktSz - 1) / c.dataPktSz

/-- The oracle's answers to a write data phase of `n` bytes: every burst `ok`, three for each frame, two without trailers. -/
def writeAnswers (c : Cfg) (crcOff : Bool) (n : Nat) : List Answer :=
  List.replicate ((if crcOff then 2 else 3) * frameCount c n) (.good [])

/-- The oracle that answers as a list of events records it. -/
def scriptOf (evs : List Event) : List Answer := evs.filterMap answerOf

/-- One-byte reads that returned these bytes, in order. -/
def readsOf (bs : List Byte) : List Event := bs.map (fun b => .r 1 (some [b]))

/-- The pieces of a byte sequence, `n` bytes each but for the last; `k` bounds their number. -/
def piecesOf (n : Nat) : Nat → List Byte → List (List Byte)
  | 0, _ => []
  | k + 1, bs => if bs = [] then [] else bs.take n :: piecesOf n k (bs.drop n)

/-- A write data frame (30_encoding R84): header, body, and the trailer `00 00` when `CRC_OFF = 0`. -/
def writeFrameEvents (crcOff : Bool) (header : Byte) (body : List Byte) : List Event :=
  [.w [header] true, .w body true] ++ (if crcOff then [] else [.w [0x00, 0x00] true])

/-- The frames of a write data phase after the first (42_spi_data R152): `f2`, the last `f3`. -/
def laterFrames (crcOff : Bool) : List (List Byte) → List Event
  | [] => []
  | [b] => writeFrameEvents crcOff 0xF3 b
  | b :: c :: rest => writeFrameEvents crcOff 0xF2 b ++ laterFrames crcOff (c :: rest)

/-- The frames of a write data phase (R152): `f3` alone, or `f1`, then the later ones. -/
def writePhase (crcOff : Bool) : List (List Byte) → List Event
  | [] => []
  | [b] => writeFrameEvents crcOff 0xF3 b
  | b :: c :: rest => writeFrameEvents crcOff 0xF1 b ++ laterFrames crcOff (c :: rest)

/-- A read data frame (30_encoding R85) as the slave sends it: header bytes that do not match, the header, the body, and the
trailer, which is present when `trailer` says so. -/
structure SlaveFrame where
  misses : List Byte
  header : Byte
  body : List Byte
  trail : List Byte
deriving DecidableEq, Repr

/-- A slave frame the block accepts: at most `k` misses, none with `0xF` in bits 7:4, a header with it, two trailer bytes. -/
abbrev SlaveFrame.accepted (k : Nat) (f : SlaveFrame) : Prop :=
  f.misses.length ≤ k ∧ (∀ x ∈ f.misses, x.extractLsb' 4 4 ≠ 0xF) ∧ f.header.extractLsb' 4 4 = 0xF ∧ f.trail.length = 2

/-- The events of a read data frame (42_spi_data R150). -/
def SlaveFrame.events (trailer : Bool) (f : SlaveFrame) : List Event :=
  readsOf (f.misses ++ [f.header]) ++ [.r f.body.length (some f.body)] ++
    (if trailer then [.r 2 (some f.trail)] else [])

/-- The events of a read data phase. -/
def readPhase (trailer : Bool) (fs : List SlaveFrame) : List Event := (fs.map (SlaveFrame.events trailer)).flatten

/-- A command frame sent and answered at once by its echo and a zero status (43_transactions R171 to R174). -/
def commandPhase (c : Cfg) (crcOff : Bool) (body : List Byte) : List Event :=
  [.w (frameBytes c crcOff body) true] ++ readsOf [body.headD 0, 0x00]

/-- One attempt and the bus reset after it, every transport call answered `err` (95 V-T5): the attempt ends at its command
frame, the reset at its first read. -/
def deadRound (c : Cfg) (crcOff : Bool) (body : List Byte) : List Event :=
  [.w (frameBytes c crcOff body) false, .w (frameBytes c crcOff [c.opc.reset, 0xFF, 0xFF, 0xFF]) false, .r 1 none]

/-- `n` such rounds. -/
def deadRounds (n : Nat) (c : Cfg) (crcOff : Bool) (body : List Byte) : List Event :=
  (List.replicate n (deadRound c crcOff body)).flatten

/-- The opcode and payload bytes of the command frame of a register read (43_transactions R171). -/
def readRegBody (c : Cfg) (adr : Word) : List Byte :=
  if adr.toNat ≤ c.clocklessRdMax.toNat then
    [c.opc.internalRead, 0x80 ||| adr.extractLsb' 8 8, adr.extractLsb' 0 8, 0x00]
  else c.opc.singleRead :: be24 (adr.extractLsb' 0 24)

/-- The opcode and payload bytes of the command frame of a register write (R172). -/
def writeRegBody (c : Cfg) (adr dat : Word) : List Byte :=
  if adr.toNat ≤ c.clocklessWrMax.toNat then
    [c.opc.internalWrite, 0x80 ||| adr.extractLsb' 8 8, adr.extractLsb' 0 8] ++ be32 dat
  else c.opc.singleWrite :: (be24 (adr.extractLsb' 0 24) ++ be32 dat)

/-- The opcode and payload bytes of the command frame of a block transaction of `n` bytes (R173, R174). -/
def blockBody (opcode : Byte) (adr : Word) (n : Nat) : List Byte :=
  opcode :: (be24 (adr.extractLsb' 0 24) ++ be24 (BitVec.ofNat 24 n))

/-- A register read has trailers when `CRC_OFF = 0` and its address is above the clockless limit (R171, 42_spi_data R150). -/
def regTrailer (c : Cfg) (crcOff : Bool) (adr : Word) : Bool := !crcOff && decide (c.clocklessRdMax.toNat < adr.toNat)

/-- The events of a register read answered by these frames (R171): one frame unless `DATA_PKT_SZ < 4`. -/
def readRegEvents (c : Cfg) (crcOff : Bool) (adr : Word) (fs : List SlaveFrame) : List Event :=
  commandPhase c crcOff (readRegBody c adr) ++ readPhase (regTrailer c crcOff adr) fs

/-- The events of a register write (R172). -/
def writeRegEvents (c : Cfg) (crcOff : Bool) (adr dat : Word) : List Event := commandPhase c crcOff (writeRegBody c adr dat)

/-- The events of a block read of `n` bytes (R173). -/
def blockReadEvents (c : Cfg) (crcOff : Bool) (adr : Word) (n : Nat) (fs : List SlaveFrame) : List Event :=
  commandPhase c crcOff (blockBody c.opc.dmaExtRead adr n) ++ readPhase (!crcOff) fs

/-- The events of a block write of these bytes (R174). -/
def blockWriteEvents (c : Cfg) (crcOff : Bool) (adr : Word) (bs : List Byte) : List Event :=
  commandPhase c crcOff (blockBody c.opc.dmaExtWrite adr bs.length) ++
    writePhase crcOff (piecesOf c.dataPktSz bs.length bs)

/-- One locked unit of requester `r`. -/
def unitOf (r : Nat) (evs : List Event) : List Event := [.acq r] ++ evs ++ [.rel r]

/-- The chunks of a block write (44_bus R195, R196), each a locked unit, addresses rising by their lengths modulo `2^32`. -/
def writeChunks (c : Cfg) (crcOff : Bool) (r : Nat) : Word → List (List Byte) → List Event
  | _, [] => []
  | adr, b :: rest =>
    unitOf r (blockWriteEvents c crcOff adr b) ++ writeChunks c crcOff r (adr + BitVec.ofNat 32 b.length) rest

/-- The chunks of a block read (44_bus R194, R196), each with the frames the slave answers. -/
def readChunks (c : Cfg) (crcOff : Bool) (r : Nat) : Word → List (List SlaveFrame) → List Event
  | _, [] => []
  | adr, fs :: rest =>
    unitOf r (blockReadEvents c crcOff adr ((fs.map (fun f => f.body)).flatten.length) fs) ++
      readChunks c crcOff r (adr + BitVec.ofNat 32 (fs.map (fun f => f.body)).flatten.length) rest

/-- Slave frames that carry these bytes in frames of at most `pkt` bytes, every header accepted at once (42_spi_data R152). -/
def plainFrames (pkt : Nat) (bs : List Byte) : List SlaveFrame :=
  (piecesOf pkt bs.length bs).map (fun b => ⟨[], 0xF0, b, [0x00, 0x00]⟩)

/-! ## Data phases and chunks counted out (42_spi_data R152, 44_bus R196), without the sequences above -/

/-- How many pieces of at most `n` bytes `len` bytes make: `ceil(len / n)`. -/
def pieceCount (n len : Nat) : Nat := (len + n - 1) / n

/-- Piece `k` of a byte sequence, counted from 0: the bytes from `n * k` on, at most `n` of them. -/
def sliceOf (n : Nat) (bs : List Byte) (k : Nat) : List Byte := (bs.drop (n * k)).take n

/-- How many bursts a data frame has: header, body, and trailer if there is one. -/
def frameBursts (trailer : Bool) : Nat := if trailer then 3 else 2

/-- The slices of a sequence tile it: all but the last are full, the last is not empty. -/
structure Tiles (n : Nat) (bs : List Byte) : Prop where
  whole : ((List.range (pieceCount n bs.length)).map (sliceOf n bs)).flatten = bs
  full : ∀ k, k + 1 < pieceCount n bs.length → (sliceOf n bs k).length = n
  last : ∀ k, k + 1 = pieceCount n bs.length →
    (sliceOf n bs k).length = bs.length - n * k ∧ 1 ≤ (sliceOf n bs k).length ∧ (sliceOf n bs k).length ≤ n

/-- These events write the bytes `bs` in data frames of `pkt` (R152): `F3` alone, or `F1`, `F2` for each middle frame, `F3`; each
frame's slice in a burst of its own; the trailer `00 00` if there is one; nothing else. -/
structure FramesWritten (pkt : Nat) (trailer : Bool) (bs : List Byte) (evs : List Event) : Prop where
  bursts : evs.length = frameBursts trailer * pieceCount pkt bs.length
  header : ∀ k, k < pieceCount pkt bs.length → evs[frameBursts trailer * k]? =
    some (.w [if k + 1 = pieceCount pkt bs.length then 0xF3 else if k = 0 then 0xF1 else 0xF2] true)
  body : ∀ k, k < pieceCount pkt bs.length → evs[frameBursts trailer * k + 1]? = some (.w (sliceOf pkt bs k) true)
  trail : ∀ k, k < pieceCount pkt bs.length → trailer = true →
    evs[frameBursts trailer * k + 2]? = some (.w [0x00, 0x00] true)
  tiles : Tiles pkt bs

/-- These events read the bytes `bs` in data frames of `pkt` (R152), each header `0xF0` and each trailer `00 00`. -/
structure FramesRead (pkt : Nat) (trailer : Bool) (bs : List Byte) (evs : List Event) : Prop where
  bursts : evs.length = frameBursts trailer * pieceCount pkt bs.length
  header : ∀ k, k < pieceCount pkt bs.length → evs[frameBursts trailer * k]? = some (.r 1 (some [0xF0]))
  body : ∀ k, k < pieceCount pkt bs.length →
    evs[frameBursts trailer * k + 1]? = some (.r (sliceOf pkt bs k).length (some (sliceOf pkt bs k)))
  trail : ∀ k, k < pieceCount pkt bs.length → trailer = true →
    evs[frameBursts trailer * k + 2]? = some (.r 2 (some [0x00, 0x00]))
  tiles : Tiles pkt bs

/-- The oracle's answers to a read data phase of the bytes `bs`: for each frame a header `0xF0`, its slice, a trailer if there is
one. -/
def readAnswers (pkt : Nat) (trailer : Bool) (bs : List Byte) : List Answer :=
  ((List.range (pieceCount pkt bs.length)).map fun k =>
    [.good [0xF0], .good (sliceOf pkt bs k)] ++ (if trailer then [.good [0x00, 0x00]] else [])).flatten

/-- These events move the bytes `bs` in chunks of `n` (R196): `ceil(length / n)` locked units of requester `r`; unit `k` sends the
command `opcode` with the slave address `(adr + n * k) mod 2^32` and its slice's length, is answered at once, and goes on with a
data phase of its slice. -/
def ChunksMoved (c : Cfg) (crcOff : Bool) (r n : Nat) (opcode : Byte) (adr : Word) (bs : List Byte)
    (phase : List Byte → List Event → Prop) (evs : List Event) : Prop :=
  ∃ units : List (List Event), evs = (units.map (unitOf r)).flatten ∧ units.length = pieceCount n bs.length ∧
    ∀ k, k < pieceCount n bs.length → ∃ data, units[k]? =
        some (.w (frameBytes c crcOff (blockBody opcode (adr + BitVec.ofNat 32 (n * k)) (sliceOf n bs k).length)) true ::
          .r 1 (some [opcode]) :: .r 1 (some [0x00]) :: data) ∧
      phase (sliceOf n bs k) data

/-! ## Bounds on the number of transport calls (43_transactions R176) -/

/-- A command frame and its response: `SPI_RESET` makes at most as many. -/
def commandCalls (c : Cfg) : Nat := 1 + 2 * (c.rspRetry + 1)

/-- A read data phase of `n` bytes. -/
def readCalls (c : Cfg) (n : Nat) : Nat := (c.rspRetry + 3) * frameCount c n

/-- A write data phase of `n` bytes. -/
def writeCalls (c : Cfg) (n : Nat) : Nat := 3 * frameCount c n

/-- `RETRY` of a transaction of at most `n` calls. -/
def retryCalls (c : Cfg) (n : Nat) : Nat := attempts c * (n + commandCalls c)

/-- A block transaction of `n` bytes. -/
def blockCalls (c : Cfg) (write : Bool) (n : Nat) : Nat := commandCalls c + (if write then writeCalls c n else readCalls c n)

/-- The next chunk of a block operation with `size` bytes to move, with every attempt of `RETRY`. -/
def chunkCalls (c : Cfg) (write : Bool) (size : Nat) : Nat := retryCalls c (blockCalls c write (min size (chunkSize c)))

/-- The most events one execution of an instruction appends: its transport calls, and two of the lock where it locks a unit. -/
def mostEvents (c : Cfg) : Instr → Nat
  | .cmdDmaWrite .. => 1
  | .cmdDmaRead .. => 1
  | .cmdInternalWrite .. => 1
  | .cmdInternalRead .. => 1
  | .cmdTerminate => 1
  | .cmdRepeat => 1
  | .cmdDmaExtWrite .. => 1
  | .cmdDmaExtRead .. => 1
  | .cmdSingleWrite .. => 1
  | .cmdSingleRead .. => 1
  | .cmdReset => 1
  | .rspEcho _ => c.rspRetry + 1
  | .rspStatus => c.rspRetry + 1
  | .dataHdrFirst => 1
  | .dataHdrMiddle => 1
  | .dataHdrLast => 1
  | .dataRspHdr _ => c.rspRetry + 1
  | .crc7Byte .. => 0
  | .crc7 .. => 0
  | .crc7Tx _ => 0
  | .crc7Check _ => 0
  | .spiCmd .. => 1
  | .spiCmdRsp _ => 2 * (c.rspRetry + 1)
  | .spiDataRead _ _ size _ => readCalls c size.toNat
  | .spiDataWrite _ _ size => writeCalls c size.toNat
  | .spiReset => commandCalls c
  | .xregRd _ => commandCalls c + readCalls c 4
  | .xregWr .. => commandCalls c
  | .xblkRd _ _ _ n => blockCalls c false n.toNat
  | .xblkWr _ _ _ n => blockCalls c true n.toNat
  | .readReg .. => retryCalls c (commandCalls c + readCalls c 4) + 2
  | .writeReg .. => retryCalls c (commandCalls c) + 2
  | .readBlock _ _ _ size => chunkCalls c false size.toNat + 2
  | .writeBlock _ _ _ size => chunkCalls c true size.toNat + 2
  | .setCrc _ => 0
  | .lockAcquire _ => 1
  | .lockRelease _ => 1

/-- A block operation, which goes on after the step that executes it while it has chunks to move (44_bus R194, R195). -/
def isBlockOp (i : Instr) : Prop :=
  ∃ r adr buf size, i = .readBlock r adr buf size ∨ i = .writeBlock r adr buf size

/-! ## Frames, by the group of registers a family of operations writes -/

/-- The registers `SPI_CMD` writes (41_spi_command R120), unchanged. -/
structure State.SameCommand (s t : State) : Prop where
  crc : t.crc = s.crc
  cb : t.cb = s.cb
  cbLen : t.cbLen = s.cbLen
  cmd : t.cmd = s.cmd
  clk : t.clk = s.clk

/-- The registers a response loop writes (R134), unchanged. -/
structure State.SameResponse (s t : State) : Prop where
  rsp : t.rsp = s.rsp
  rk : t.rk = s.rk

/-- The registers both data phases write (42_spi_data R150, R151), unchanged. -/
structure State.SamePhase (s t : State) : Prop where
  ix : t.ix = s.ix
  rem : t.rem = s.rem
  nb : t.nb = s.nb

/-- The registers of the chunk loop (44_bus R194), unchanged. -/
structure State.SameBlock (s t : State) : Prop where
  addr : t.addr = s.addr
  off : t.off = s.off
  sz : t.sz = s.sz
  acc : t.acc = s.acc

/-- Every byte of every host buffer reads as before. -/
abbrev State.SameBytes (s t : State) : Prop := ∀ (buf : BufId) (k : Nat), t.mem.get? buf k = s.mem.get? buf k

/-- Every byte but the `n` of buffer `buf` from `off` on reads as before. -/
abbrev State.SameBytesBut (s t : State) (buf : BufId) (off n : Nat) : Prop :=
  ∀ (b : BufId) (k : Nat), b ≠ buf ∨ k < off ∨ off + n ≤ k → t.mem.get? b k = s.mem.get? b k

/-- None of the `n` bytes of buffer `buf` from `off` on holds a value (60_exceptions R224, 93 U11). -/
abbrev State.lostBytes (t : State) (buf : BufId) (off n : Nat) : Prop :=
  ∀ k, off ≤ k → k < off + n → t.mem.get? buf k = none

/-- The bytes `bs` are what buffer `buf` holds from `off` on, wherever it holds a value. -/
abbrev State.agrees (s : State) (buf : BufId) (off : Nat) (bs : List Byte) : Prop :=
  ∀ k, k < bs.length → ∀ b, s.mem.get? buf (off + k) = some b → bs[k]? = some b

/-- An operation of `who` did these events, used the oracle up to `rest`, gave this result, and left alone what no operation of
its layer touches. -/
structure State.Did (s t : State) (who : Nat) (evs : List Event) (rest : List Answer) (res : Result) : Prop where
  history : t.h = s.h ++ evs
  oracle : t.oracle = rest
  results : t.results = s.results ++ [(who, res)]
  outside : s.SameOutside t

/-- What no block operation changes, whatever becomes of it. -/
structure State.SameBase (s t : State) : Prop where
  cfg : t.cfg = s.cfg
  crcOff : t.crcOff = s.crcOff
  lock : t.lock = s.lock
  bufLens : t.bufLens = s.bufLens
  port : t.port = s.port
  issuer : t.issuer = s.issuer

/-- `k` failed attempts of a transaction, each followed by a bus reset and counted in `RETRY`'s own `ATT` (43_transactions
R175). -/
inductive FailedRounds {α : Type} (x : Op α) : Nat → State → State → Prop
  | zero (s : State) : FailedRounds x 0 s s
  | succ {k : Nat} {s t u : State} {c : Cause} :
      x s = (.fail c, t) → FailedRounds x k { spiReset t with att := s.att + 1 } u → FailedRounds x (k + 1) s u

/-- The four single-attempt transactions (43_transactions R171 to R174), ready to run in a state, each with the opcode and payload
bytes of its command frame and the most transport calls it can make (R176). -/
inductive Transaction (s : State) : Instr → List Byte → Nat → Prop
  | regRead (adr : Word) :
      Transaction s (.xregRd adr) (readRegBody s.cfg adr) (commandCalls s.cfg + readCalls s.cfg 4)
  | regWrite (adr dat : Word) : Transaction s (.xregWr adr dat) (writeRegBody s.cfg adr dat) (commandCalls s.cfg)
  | blockRead (adr : Word) (buf : BufId) (off : Nat) (n : BitVec 16) : s.bufferReady s.issuer buf off n.toNat true →
      Transaction s (.xblkRd adr buf off n) (blockBody s.cfg.opc.dmaExtRead adr n.toNat) (blockCalls s.cfg false n.toNat)
  | blockWrite (adr : Word) (buf : BufId) (off : Nat) (n : BitVec 16) : s.bufferReady s.issuer buf off n.toNat false →
      Transaction s (.xblkWr adr buf off n) (blockBody s.cfg.opc.dmaExtWrite adr n.toNat) (blockCalls s.cfg true n.toNat)

/-- The bytes a block operation has still to move. -/
def bytesLeft (c : Cfg) (b : BlockOp) : Nat := b.size.toNat - chunkSize c * b.chunk

/-- The opcode and payload bytes of the command frame of a block operation's next chunk (44_bus R194 to R196): `min(left, C)`
bytes at `(addr + C * chunk) mod 2^32`. -/
def chunkBody (c : Cfg) (b : BlockOp) : List Byte :=
  blockBody (if b.write then c.opc.dmaExtWrite else c.opc.dmaExtRead) (b.adr + BitVec.ofNat 32 (chunkSize c * b.chunk))
    (min (bytesLeft c b) (chunkSize c))

/-- What is left of a block operation's region when a chunk has ended, in `t`, without a failure (44_bus R194 to R196): code 0
after the last chunk; else the operation stands before the next one, whose `ADDR`, `OFF`, `SZ` the registers hold. A read has
given every byte of the chunk a value. -/
def ChunkMoved (s : State) (r : Nat) (b : BlockOp) (t : State) : Prop :=
  t.acc = 0 ∧
  (b.write = false → ∃ bs, t.mem.known? b.buf (min (bytesLeft s.cfg b) (chunkSize s.cfg))
    (chunkSize s.cfg * b.chunk) = some bs) ∧
  ((bytesLeft s.cfg b ≤ chunkSize s.cfg ∧ t.results = s.results ++ [(r, .code 0)] ∧ t.seqOf r = none) ∨
   (chunkSize s.cfg < bytesLeft s.cfg b ∧ t.results = s.results ∧
     t.seqOf r = some (.block { b with chunk := b.chunk + 1 }) ∧
     t.addr = b.adr + BitVec.ofNat 32 (chunkSize s.cfg * (b.chunk + 1)) ∧
     t.off.toNat = chunkSize s.cfg * (b.chunk + 1) ∧ t.sz.toNat = bytesLeft s.cfg b - chunkSize s.cfg))

/-- One turn of the chunk loop with the lock free, whatever the transport answers (44_bus R194, R195, R197): one locked unit,
its first burst the chunk's command frame, with no more calls than R176 allows; then the chunk has been moved, or the operation
is over with `M2M_ERR_BUS_FAIL`, a read's region without a value from the chunk's offset to the end. The chunks before it stay
as they were. -/
def ChunkTurned (s : State) (r : Nat) (b : BlockOp) (t : State) : Prop :=
  ∃ ok inner, t.h = s.h ++ unitOf r (.w (frameBytes s.cfg s.crcOff (chunkBody s.cfg b)) ok :: inner) ∧
    (∀ e ∈ inner, e.isBurst = true) ∧
    inner.length + 1 ≤ chunkCalls s.cfg b.write (bytesLeft s.cfg b) ∧
    t.cfg = s.cfg ∧ t.crcOff = s.crcOff ∧ t.lock = .free ∧ t.bufLens = s.bufLens ∧ t.port = s.port ∧
    (∀ q, q ≠ r → t.seqOf q = s.seqOf q) ∧ (b.write = true → s.SameBytes t) ∧
    s.SameBytesBut t b.buf (chunkSize s.cfg * b.chunk) (bytesLeft s.cfg b) ∧
    (ChunkMoved s r b t ∨
      (t.results = s.results ++ [(r, .code s.cfg.errBusFail)] ∧ t.seqOf r = none ∧ t.acc = s.cfg.errBusFail ∧
        (b.write = false → t.lostBytes b.buf (chunkSize s.cfg * b.chunk) (bytesLeft s.cfg b))))

/-- The bytes an operation may store to: the buffer, the first offset, the number of bytes. -/
def storedTo : Instr → Option (BufId × Nat × Nat)
  | .spiDataRead buf off size _ => some (buf, off, size.toNat)
  | .xblkRd _ buf off n => some (buf, off, n.toNat)
  | .readBlock _ _ buf size => some (buf, 0, size.toNat)
  | .cmdDmaWrite .. => none
  | .cmdDmaRead .. => none
  | .cmdInternalWrite .. => none
  | .cmdInternalRead .. => none
  | .cmdTerminate => none
  | .cmdRepeat => none
  | .cmdDmaExtWrite .. => none
  | .cmdDmaExtRead .. => none
  | .cmdSingleWrite .. => none
  | .cmdSingleRead .. => none
  | .cmdReset => none
  | .rspEcho _ => none
  | .rspStatus => none
  | .dataHdrFirst => none
  | .dataHdrMiddle => none
  | .dataHdrLast => none
  | .dataRspHdr _ => none
  | .crc7Byte .. => none
  | .crc7 .. => none
  | .crc7Tx _ => none
  | .crc7Check _ => none
  | .spiCmd .. => none
  | .spiCmdRsp _ => none
  | .spiDataWrite .. => none
  | .spiReset => none
  | .xregRd _ => none
  | .xregWr .. => none
  | .xblkWr .. => none
  | .readReg .. => none
  | .writeReg .. => none
  | .writeBlock .. => none
  | .setCrc _ => none
  | .lockAcquire _ => none
  | .lockRelease _ => none

/-- What a step may store to: the buffer, the first offset, the number of bytes. A block operation in progress stores to what it
has still to move; a request, to what its operation stores to. -/
def State.stepStores (s : State) : Option (BufId × Nat × Nat) :=
  match s.seqOf s.turn.1 with
  | some p =>
    match p.block? with
    | some b =>
      if b.write then none else some (b.buf, chunkSize s.cfg * b.chunk, bytesLeft s.cfg b)
    | none => none
  | none =>
    match takeRequest s.turn.1 s.port with
    | some (x, _) =>
      match decodeIn s.cfg.opc x.space x.word with
      | .ok i => storedTo i
      | .error _ => none
    | none => none

/-- The events of one step of requester `q` in state `s` (20_memory R57, R62): none; bursts, of a requester that may drive the
bus; the lock taken when it is free, or given back by its holder; or one whole locked unit from a free lock. -/
def oneUnit (s : State) (q : Nat) (evs : List Event) : Prop :=
  evs = [] ∨ ((∀ e ∈ evs, e.isBurst = true) ∧ s.mayDrive q = true) ∨ (evs = [.acq q] ∧ s.lock = .free) ∨
    (evs = [.rel q] ∧ s.lock = .held q) ∨
    ∃ inner, (∀ e ∈ inner, e.isBurst = true) ∧ evs = unitOf q inner ∧ s.lock = .free

/-- An operation of layer T or X: it runs for the issuer and needs the lock (70_reset R253), and so does a wire row executed by
itself, as layer T does (log entry 12). -/
def needsBus : Instr → Bool
  | .cmdDmaWrite .. => true
  | .cmdDmaRead .. => true
  | .cmdInternalWrite .. => true
  | .cmdInternalRead .. => true
  | .cmdTerminate => true
  | .cmdRepeat => true
  | .cmdDmaExtWrite .. => true
  | .cmdDmaExtRead .. => true
  | .cmdSingleWrite .. => true
  | .cmdSingleRead .. => true
  | .cmdReset => true
  | .rspEcho _ => true
  | .rspStatus => true
  | .dataHdrFirst => true
  | .dataHdrMiddle => true
  | .dataHdrLast => true
  | .dataRspHdr _ => true
  | .crc7Byte .. => false
  | .crc7 .. => false
  | .crc7Tx _ => false
  | .crc7Check _ => false
  | .spiCmd .. => true
  | .spiCmdRsp _ => true
  | .spiDataRead .. => true
  | .spiDataWrite .. => true
  | .spiReset => true
  | .xregRd _ => true
  | .xregWr .. => true
  | .xblkRd .. => true
  | .xblkWr .. => true
  | .readReg .. => false
  | .writeReg .. => false
  | .readBlock .. => false
  | .writeBlock .. => false
  | .setCrc _ => false
  | .lockAcquire _ => false
  | .lockRelease _ => false

end Sys2Proof.Machine
end

