-- ==== Sys2Proof/Certificates/Slice0/Obligations.lean ====
section
/-! DEFINITION. The statements for the provers, over every state, every configuration the state carries, and every operand. A
statement about a transport operation scripts the answers of the transport in `oracle`; where it says `any`, the answers are
arbitrary. Docstrings name the rules. -/

open Sys2Proof Sys2Proof.Machine

/-! ## Encodings -/

/-- Every instruction of every space is what its word decodes to, whatever bytes follow the word, byte sequences and requester
numbers of any size included (30_encoding R73 to R79, R83 to R85, R90). The request's operand bytes are the model's layout (log
entry 10). -/
def Obligations.EncodeThenDecode : Prop :=
  ∀ (m : OpcMap) (i : Instr) (trailing : List Byte), m.wf = true → decodeIn m i.space (encode m i ++ trailing) = .ok i

/-- What a word decodes to is of the space the word was read in and is re-encoded to the bytes read, all of them, but for the four
commands with constant payload bytes, which the decoder does not look at (`CMD_INTERNAL_READ`, `CMD_TERMINATE`, `CMD_REPEAT`,
`CMD_RESET`; log entry 11): these are re-encoded to a word with the same opcode byte, and `CMD_INTERNAL_READ` to the same three
first bytes. The request's layout is log entry 10. -/
def Obligations.DecodedWordsReencode : Prop :=
  ∀ (m : OpcMap) (sp : Space) (w : List Byte) (i : Instr), m.wf = true → decodeIn m sp w = .ok i →
    i.space = sp ∧ (encode m i).head? = w.head? ∧
    (∀ k a, i = .cmdInternalRead k a → (encode m i).take 3 = w.take 3) ∧
    ((∀ k a, i ≠ .cmdInternalRead k a) → i ≠ .cmdTerminate → i ≠ .cmdRepeat → i ≠ .cmdReset →
      encode m i = w.take (encode m i).length)

/-- A reserved encoding is refused by name and never taken for a neighbour: an opcode outside the map (30_encoding R86), a
select byte outside the table (R90), a status byte that is not zero (R83), a byte that is no header (R84, R85). A step whose
request has such a select byte is refused (R90, 93 U4). That bits 7:5 of the select byte are part of the code, so that `0x21` is
outside the table, is log entry 31; that wire bytes are decoded at all is log entry 11. -/
def Obligations.ReservedWordsAreRefused : Prop :=
  ∀ (m : OpcMap) (b : Byte) (rest : List Byte),
    (b ∉ m.values → decodeIn m .command (b :: rest) = .error (.unknownOpcode b)) ∧
    ((∀ sel : Select, sel.code ≠ b) → decodeIn m .request (b :: rest) = .error (.unknownSelect b)) ∧
    (b ≠ 0 → decodeIn m .status (b :: rest) = .error (.notStatus b)) ∧
    (b ≠ 0xF1 → b ≠ 0xF2 → b ≠ 0xF3 → decodeIn m .writeHeader (b :: rest) = .error (.notHeader b)) ∧
    (b.extractLsb' 4 4 ≠ 0xF → decodeIn m .readHeader (b :: rest) = .error (.notHeader b)) ∧
    (∀ (s : State) (q : Nat) (port : List Request) (sched : List Nat), s.cfg.wf = true → (∀ sel : Select, sel.code ≠ b) →
      s.sched = q :: sched → s.seqOf q = none → s.port = ⟨q, .request, b :: rest⟩ :: port →
      step s = .refused (.noInstruction (.unknownSelect b)))

/-- A few words as the opcode table numbers their bits (30_encoding R72, R81, R83 to R85, R90). -/
def Obligations.SampleTableWords : Prop :=
  decodeTableWord 64 0x78563412701000C9 = some (.cmdSingleWrite 0x001070 0x12345678) ∧
  decodeTableWord 32 0x001080C4 = some (.cmdInternalRead true 0x0010) ∧
  decodeTableWord 48 0x0001701000C2 = some (.cmdDmaRead 0x001070 0x0100) ∧
  decodeTableWord 8 0x00 = some .rspStatus ∧
  decodeTableWord 8 0xF2 = some .dataHdrMiddle ∧
  decodeTableWord 8 0xF4 = some (.dataRspHdr 4) ∧
  decodeTableWord 8 0x0C = some .spiReset ∧
  decodeTableWord 8 0x05 = none ∧
  decodeTableWord 80 0x78563412701000000019 = some (.writeReg 0 0x00001070 0x12345678) ∧
  decodeTableWord 16 0x011C = some (.setCrc true)

/-- Frame lengths (30_encoding R72): the payload's length for each of the eleven commands, one byte more without the CRC byte,
two with it; the longest and shortest frames with it have 9 and 5 bytes. -/
def Obligations.FrameLengths : Prop :=
  (∀ (c : CmdName) (adr dat sz : Word) (clk : Bool), (payload c adr dat sz clk).length = npay c) ∧
  (npay .singleRead = 3 ∧ npay .internalRead = 3 ∧ npay .terminate = 3 ∧ npay .repeat_ = 3 ∧ npay .reset = 3 ∧
    npay .dmaWrite = 5 ∧ npay .dmaRead = 5 ∧ npay .dmaExtWrite = 6 ∧ npay .dmaExtRead = 6 ∧ npay .internalWrite = 6 ∧
    npay .singleWrite = 7) ∧
  (∀ (cfg : Cfg) (opcode : Byte) (c : CmdName) (adr dat sz : Word) (clk : Bool),
    (frameBytes cfg true (opcode :: payload c adr dat sz clk)).length = 1 + npay c ∧
    (frameBytes cfg false (opcode :: payload c adr dat sz clk)).length = 2 + npay c ∧
    5 ≤ 2 + npay c ∧ 2 + npay c ≤ 9)

/-- Operand assembly (30_encoding R82): each field most significant byte first, taking the operand's low bits; the clockless
flag is or-ed into bit 7; the payload depends on nothing else, so operand bits above a field are dropped silently. -/
def Obligations.OperandAssembly : Prop :=
  (∀ (adr dat sz : Word) (clk : Bool),
    let a2 : Byte := adr.extractLsb' 16 8
    let a1 : Byte := adr.extractLsb' 8 8
    let a0 : Byte := adr.extractLsb' 0 8
    let hi : Byte := (BitVec.ofBool (adr.getLsbD 15 || clk)) ++ adr.extractLsb' 8 7
    let d : List Byte := [dat.extractLsb' 24 8, dat.extractLsb' 16 8, dat.extractLsb' 8 8, dat.extractLsb' 0 8]
    let s2 : Byte := sz.extractLsb' 16 8
    let s1 : Byte := sz.extractLsb' 8 8
    let s0 : Byte := sz.extractLsb' 0 8
    payload .singleRead adr dat sz clk = [a2, a1, a0] ∧
    payload .internalRead adr dat sz clk = [hi, a0, 0x00] ∧
    payload .terminate adr dat sz clk = [0x00, 0x00, 0x00] ∧
    payload .repeat_ adr dat sz clk = [0x00, 0x00, 0x00] ∧
    payload .reset adr dat sz clk = [0xFF, 0xFF, 0xFF] ∧
    payload .dmaWrite adr dat sz clk = [a2, a1, a0, s1, s0] ∧
    payload .dmaRead adr dat sz clk = [a2, a1, a0, s1, s0] ∧
    payload .dmaExtWrite adr dat sz clk = [a2, a1, a0, s2, s1, s0] ∧
    payload .dmaExtRead adr dat sz clk = [a2, a1, a0, s2, s1, s0] ∧
    payload .internalWrite adr dat sz clk = [hi, a0] ++ d ∧
    payload .singleWrite adr dat sz clk = [a2, a1, a0] ++ d) ∧
  (∀ (c : CmdName) (adr adr' dat sz sz' : Word) (clk : Bool), adr.extractLsb' 0 24 = adr'.extractLsb' 0 24 →
    sz.extractLsb' 0 24 = sz'.extractLsb' 0 24 → payload c adr dat sz clk = payload c adr' dat sz' clk)

/-! ## The generator -/

/-- `CRC7_BYTE(c, d)` (40_crc7 R101): one table step at index `(c << 1) xor d`, left in `CRC` and returned, whatever the
configuration's table; bit 0 of the index is bit 0 of `d`; the table of R100 has 256 entries, gives `CRC7_BYTE(0, 0) = 0`
and makes the step the bit-serial one for all operands; request-port code `0x01`; the rule's example. -/
def Obligations.Crc7ByteIsOneTableStep : Prop :=
  ∀ (s : State) (c : Crc) (d : Byte), s.admits s.issuer →
    exec (.crc7Byte c d) s =
      .next ({ s with crc := s.cfg.crc7Table.getD ((c.setWidth 8 <<< 1) ^^^ d).toNat 0 }.report s.issuer
        (.crc (s.cfg.crc7Table.getD ((c.setWidth 8 <<< 1) ^^^ d).toNat 0))) ∧
    ((c.setWidth 8 <<< 1) ^^^ d : Byte).getLsbD 0 = d.getLsbD 0 ∧
    defaultTable.length = 256 ∧ crcStep defaultTable 0 0 = 0 ∧ crcStep defaultTable 0x7F 0xCF = 0x22 ∧
    (s.cfg.crc7Table = defaultTable → s.cfg.crc7Table.getD ((c.setWidth 8 <<< 1) ^^^ d).toNat 0 = bitwise c d) ∧
    (encode s.cfg.opc (.crc7Byte c d)).head? = some 0x01

/-- `CRC7(seed, s)` (40_crc7 R102): the table steps over the bytes in order, for any sequence and seed; the empty sequence gives
the seed; a concatenation is computed in two parts; the block's own seed is `CFG.CRC7_SEED`; request-port code `0x02`; the
rule's example. -/
def Obligations.Crc7FoldsTheBytes : Prop :=
  ∀ (s : State) (seed : Crc) (bs cs : List Byte), s.admits s.issuer →
    exec (.crc7 seed bs) s =
      .next ({ s with crc := crcOf s.cfg.crc7Table seed bs }.report s.issuer (.crc (crcOf s.cfg.crc7Table seed bs))) ∧
    crcOf s.cfg.crc7Table seed [] = seed ∧
    (∀ (b : Byte), crcOf s.cfg.crc7Table seed (b :: bs) = crcOf s.cfg.crc7Table (crcStep s.cfg.crc7Table seed b) bs) ∧
    crcOf s.cfg.crc7Table seed (bs ++ cs) = crcOf s.cfg.crc7Table (crcOf s.cfg.crc7Table seed bs) cs ∧
    Cfg.crcSum s.cfg bs = crcOf s.cfg.crc7Table s.cfg.crc7Seed bs ∧
    defaultCfg.crc7Seed = 0x7F ∧
    (encode s.cfg.opc (.crc7 seed bs)).head? = some 0x02 ∧
    crcOf defaultTable 0x7F [0xCF, 0xFF, 0xFF, 0xFF] = 0x55

/-- `CRC7_TX(s)` (40_crc7 R103): the CRC7 with the configuration's seed, which R6 fixes at `0x7F`, shifted left by one; always
even, at most `0xFE`, and no bit of the CRC7 is lost; with the seed `0x7F` the empty sequence gives `0xFE`; request-port code
`0x03`; the rule's example. -/
def Obligations.Crc7TxShiftsLeftByOne : Prop :=
  ∀ (s : State) (bs : List Byte), s.admits s.issuer →
    let v : Crc := crcOf s.cfg.crc7Table s.cfg.crc7Seed bs
    let b : Byte := v.setWidth 8 <<< 1
    exec (.crc7Tx bs) s = .next ({ s with crc := v }.report s.issuer (.byte b)) ∧
    b.getLsbD 0 = false ∧ b.toNat = 2 * v.toNat ∧ b.toNat ≤ 0xFE ∧ b.extractLsb' 1 7 = v ∧
    defaultCfg.crc7Seed = 0x7F ∧ (s.cfg.crc7Seed = 0x7F → Cfg.crcTx s.cfg [] = 0xFE) ∧
    (encode s.cfg.opc (.crc7Tx bs)).head? = some 0x03 ∧
    Cfg.crcTx defaultCfg [0xCF, 0xFF, 0xFF, 0xFF] = 0xAA

/-- `CRC7_CHECK(f)` (40_crc7 R104), for `f` of at least 2 bytes: the last byte against `CRC7_TX` of the others; with the table of
R100 and seed `0x7F` it holds exactly when the CRC7 of all of `f` is 0 and bit 0 of its last byte is 0; request-port code
`0x04`; the rule's examples. -/
def Obligations.Crc7CheckIsZeroResidue : Prop :=
  ∀ (s : State) (bs : List Byte) (b : Byte), s.admits s.issuer → 1 ≤ bs.length →
    exec (.crc7Check (bs ++ [b])) s =
      .next ({ s with crc := Cfg.crcSum s.cfg bs }.report s.issuer (.bit (decide (b = Cfg.crcTx s.cfg bs)))) ∧
    (s.cfg.crc7Table = defaultTable → s.cfg.crc7Seed = 0x7F →
      (b = Cfg.crcTx s.cfg bs ↔ crcOf defaultTable 0x7F (bs ++ [b]) = 0 ∧ b.getLsbD 0 = false)) ∧
    (encode s.cfg.opc (.crc7Check (bs ++ [b]))).head? = some 0x04 ∧
    Cfg.crcCheck defaultCfg [0xCF, 0xFF, 0xFF, 0xFF, 0xAA] = true ∧
    Cfg.crcCheck defaultCfg [0xCF, 0xFF, 0xFF, 0xFF, 0xAB] = false

/-- `CRC7_CHECK` on fewer than 2 bytes, which R104 does not cover and the table's row admits (log entry 21): on one byte the
pseudocode's comparison with `CRC7_TX` of the empty sequence; on none, some bit, whatever it is. Either way it completes. -/
def Obligations.Crc7CheckOfShortFrames : Prop :=
  ∀ (s : State) (b : Byte), s.admits s.issuer →
    exec (.crc7Check [b]) s =
      .next ({ s with crc := s.cfg.crc7Seed }.report s.issuer (.bit (decide (b = Cfg.crcTx s.cfg [])))) ∧
    ∃ v, exec (.crc7Check []) s =
      .next ({ s with crc := s.cfg.crc7Seed, draws := s.draws + 1 }.report s.issuer (.bit v))

/-- The generator with seed 0 is linear, and the seed adds the CRC7 of as many zero bytes (40_crc7 R105). -/
def Obligations.GeneratorIsLinear : Prop :=
  (∀ (bs cs : List Byte), bs.length = cs.length →
    crcOf defaultTable 0 (List.zipWith (fun x y => x ^^^ y) bs cs) = crcOf defaultTable 0 bs ^^^ crcOf defaultTable 0 cs) ∧
  (∀ (seed : Crc) (bs : List Byte),
    crcOf defaultTable seed bs = crcOf defaultTable 0 bs ^^^ crcOf defaultTable seed (List.replicate bs.length 0))

/-! ## Command frames and responses -/

/-- The eleven wire commands (41_spi_command R121 to R131, 30_encoding R73 to R80): each of `CMD_DMA_WRITE`, `CMD_DMA_READ`,
`CMD_INTERNAL_WRITE`, `CMD_INTERNAL_READ`, `CMD_TERMINATE`, `CMD_REPEAT`, `CMD_DMA_EXT_WRITE`, `CMD_DMA_EXT_READ`,
`CMD_SINGLE_WRITE`, `CMD_SINGLE_READ`, `CMD_RESET` completes by sending its own frame, as its encoding lays it out, in one burst,
and holds it in `CB`. What a wire row does when executed is log entry 12. -/
def Obligations.ElevenCommandsSendTheirFrames : Prop :=
  ∀ (s : State) (i : Instr) (bs : List Byte) (rest : List Answer), i.space = .command → s.onBus →
    s.oracle = .good bs :: rest →
    let body := encode s.cfg.opc i
    let frame := frameBytes s.cfg s.crcOff body
    ∃ t, exec i s = .next t ∧ s.Did t s.issuer [.w frame true] rest .ok ∧
      t.cb.take t.cbLen.toNat = frame ∧ t.cbLen.toNat = frame.length ∧ t.cb.length = 9 ∧ some t.cmd = body.head? ∧
      t.crc = (if s.crcOff then s.crc else Cfg.crcSum s.cfg body) ∧
      s.SameResponse t ∧ s.SamePhase t ∧ t.order = s.order ∧ t.att = s.att ∧ s.SameBlock t ∧ t.tmp = s.tmp ∧ s.SameBytes t

/-- `SPI_CMD` with one of the eleven opcodes (41_spi_command R120): one burst that holds the whole frame; `ok` when the
transport answers `ok`, `TransportError` with the burst's index (log entry 30) when it answers `err`, with no retry. -/
def Obligations.SpiCmdSendsOneBurst : Prop :=
  ∀ (s : State) (c : CmdName) (adr dat sz : Word) (clk : Bool) (a : Answer) (rest : List Answer), s.onBus →
    s.oracle = a :: rest →
    let body := s.cfg.opc.code c :: payload c adr dat sz clk
    let frame := frameBytes s.cfg s.crcOff body
    ∃ t, exec (.spiCmd (s.cfg.opc.code c) adr dat sz clk) s = .next t ∧
      s.Did t s.issuer [.w frame (decide (a ≠ .err))] rest
        (if a = .err then .fail (.transportError s.h.length) else .ok) ∧
      t.cb.take t.cbLen.toNat = frame ∧ t.cbLen.toNat = frame.length ∧ t.cmd = s.cfg.opc.code c ∧ t.clk = clk ∧
      t.crc = (if s.crcOff then s.crc else Cfg.crcSum s.cfg body) ∧
      s.SameResponse t ∧ s.SamePhase t ∧ t.order = s.order ∧ t.att = s.att ∧ s.SameBlock t ∧ t.tmp = s.tmp ∧ s.SameBytes t

/-- `SPI_CMD` with a byte outside the opcode map (41_spi_command R132): it returns `fail` with `BadCommand`, whatever the
transport would answer: no call, no event; `CB` and `CBLEN` take free values of their sizes; nothing else changes but `CMD` and
`CLK`. No command of the block itself can reach this. -/
def Obligations.UnknownCommandFails : Prop :=
  ∀ (s : State) (cmd : Byte) (adr dat sz : Word) (clk : Bool), s.onBus → cmd ∉ s.cfg.opc.values →
    (∃ cb len d, exec (.spiCmd cmd adr dat sz clk) s =
        .next ({ s with cmd := cmd, clk := clk, cb := cb, cbLen := len, draws := d }.report s.issuer (.fail (.badCommand cmd))) ∧
      cb = freeBytes 9 s.draws ∧ cb.length = 9 ∧ len.toNat ≤ 9) ∧
    ∀ c : CmdName, s.cfg.opc.code c ∈ s.cfg.opc.values

/-- The CRC mode (41_spi_command R133): for every command and operands, the frame sent with `CRC_OFF = 1` is the one sent with
`CRC_OFF = 0` without its last byte, and `CRC` is not run; lengths 5, 7, 8, 9 and 4, 6, 7, 8. -/
def Obligations.CrcModeDropsLastByte : Prop :=
  ∀ (s : State) (c : CmdName) (adr dat sz : Word) (clk : Bool) (bs : List Byte) (rest : List Answer), s.onBus →
    s.oracle = .good bs :: rest →
    ∃ t0 t1 frame, exec (.spiCmd (s.cfg.opc.code c) adr dat sz clk) { s with crcOff := false } = .next t0 ∧
      exec (.spiCmd (s.cfg.opc.code c) adr dat sz clk) { s with crcOff := true } = .next t1 ∧
      t0.h = s.h ++ [.w frame true] ∧ t1.h = s.h ++ [.w frame.dropLast true] ∧ t1.crc = s.crc ∧
      frame.length ∈ [5, 7, 8, 9] ∧ frame.dropLast.length ∈ [4, 6, 7, 8]

/-- `SPI_CMD_RSP(cmd)` answered (41_spi_command R134): up to `RSP_RETRY` bytes that are not the echo, the echo, up to `RSP_RETRY`
non-zero bytes, a zero: one read burst a byte, `ok`; `cmd` need be no opcode. `RK` keeps the low 4 bits of its count (10_state
R27; log entry 24). -/
def Obligations.ResponseMatched : Prop :=
  ∀ (s : State) (cmd : Byte) (es ss : List Byte) (rest : List Answer), s.onBus →
    es.length ≤ s.cfg.rspRetry → (∀ b ∈ es, b ≠ cmd) → ss.length ≤ s.cfg.rspRetry → (∀ b ∈ ss, b ≠ 0) →
    s.oracle = scriptOf (readsOf (es ++ [cmd] ++ ss ++ [0])) ++ rest →
    ∃ t, exec (.spiCmdRsp cmd) s = .next t ∧ s.Did t s.issuer (readsOf (es ++ [cmd] ++ ss ++ [0])) rest .ok ∧
      t.rsp = 0 ∧ t.rk = BitVec.ofNat 4 ss.length ∧ s.SameCommand t ∧ s.SamePhase t ∧ t.order = s.order ∧ t.att = s.att ∧
      s.SameBlock t ∧ t.tmp = s.tmp ∧ s.SameBytes t

/-- The response that fails (41_spi_command R134, 60_exceptions R221, R223): `RSP_RETRY + 1` echo reads that all differ end
it with `EchoTimeout` and no status read; an echo and then `RSP_RETRY + 1` non-zero status bytes end it with `StatusTimeout`; the
cause names the command and the last byte read. A read that answers `err` ends it at once with `TransportError`, in either phase,
whatever retries remain; the cause carries the burst's index in `H` (log entry 30). `RK` keeps the low 4 bits of its count
(10_state R27; log entry 24). -/
def Obligations.ResponseFails : Prop :=
  ∀ (s : State) (cmd last : Byte) (es ss : List Byte) (rest : List Answer), s.onBus → (∀ b ∈ es, b ≠ cmd) →
    (es.length = s.cfg.rspRetry → last ≠ cmd → s.oracle = scriptOf (readsOf (es ++ [last])) ++ rest →
      ∃ t, exec (.spiCmdRsp cmd) s = .next t ∧
        s.Did t s.issuer (readsOf (es ++ [last])) rest (.fail (.echoTimeout cmd last)) ∧
        t.rsp = last ∧ t.rk = BitVec.ofNat 4 s.cfg.rspRetry ∧ s.SameCommand t ∧ s.SamePhase t ∧ t.order = s.order ∧ t.att = s.att ∧
        s.SameBlock t ∧ t.tmp = s.tmp ∧ s.SameBytes t) ∧
    (es.length ≤ s.cfg.rspRetry → ss.length = s.cfg.rspRetry → (∀ b ∈ ss, b ≠ 0) → last ≠ 0 →
      s.oracle = scriptOf (readsOf (es ++ [cmd] ++ ss ++ [last])) ++ rest →
      ∃ t, exec (.spiCmdRsp cmd) s = .next t ∧
        s.Did t s.issuer (readsOf (es ++ [cmd] ++ ss ++ [last])) rest (.fail (.statusTimeout cmd last)) ∧
        t.rsp = last ∧ t.rk = BitVec.ofNat 4 s.cfg.rspRetry ∧ s.SameCommand t ∧ s.SamePhase t ∧ t.order = s.order ∧ t.att = s.att ∧
        s.SameBlock t ∧ t.tmp = s.tmp ∧ s.SameBytes t) ∧
    (es.length ≤ s.cfg.rspRetry → s.oracle = scriptOf (readsOf es) ++ .err :: rest →
      ∃ t, exec (.spiCmdRsp cmd) s = .next t ∧
        s.Did t s.issuer (readsOf es ++ [.r 1 none]) rest (.fail (.transportError (s.h.length + es.length)))) ∧
    (es.length ≤ s.cfg.rspRetry → ss.length ≤ s.cfg.rspRetry → (∀ b ∈ ss, b ≠ 0) →
      s.oracle = scriptOf (readsOf (es ++ [cmd] ++ ss)) ++ .err :: rest →
      ∃ t, exec (.spiCmdRsp cmd) s = .next t ∧
        s.Did t s.issuer (readsOf (es ++ [cmd] ++ ss) ++ [.r 1 none]) rest
          (.fail (.transportError (s.h.length + es.length + 1 + ss.length))))

/-- The rows `RSP_ECHO` and `RSP_STATUS` (30_encoding R83, 41_spi_command R134; log entry 12): each is its phase of the response
matcher alone: at most `RSP_RETRY` other bytes, then the awaited one. `RK` keeps the low 4 bits of its count (10_state
R27; log entry 24). -/
def Obligations.ResponsePhasesComplete : Prop :=
  ∀ (s : State) (awaited : Byte) (i : Instr) (es : List Byte) (rest : List Answer), s.onBus →
    (i = .rspEcho awaited ∨ (i = .rspStatus ∧ awaited = 0)) → es.length ≤ s.cfg.rspRetry → (∀ b ∈ es, b ≠ awaited) →
    s.oracle = scriptOf (readsOf (es ++ [awaited])) ++ rest →
    ∃ t, exec i s = .next t ∧ s.Did t s.issuer (readsOf (es ++ [awaited])) rest .ok ∧
      t.rsp = awaited ∧ t.rk = BitVec.ofNat 4 es.length ∧ s.SameCommand t ∧ s.SamePhase t ∧ t.order = s.order ∧ t.att = s.att ∧
      s.SameBlock t ∧ t.tmp = s.tmp ∧ s.SameBytes t

/-- Whatever the transport answers, `SPI_CMD_RSP` ends, after 1 to `2 * (RSP_RETRY + 1)` one-byte reads and nothing else
(41_spi_command R134, 43_transactions R176), with `ok` or one of its three causes. -/
def Obligations.ResponseIsBounded : Prop :=
  ∀ (s : State) (cmd : Byte), s.onBus →
    ∃ t evs res, exec (.spiCmdRsp cmd) s = .next t ∧ t.h = s.h ++ evs ∧ (∀ e ∈ evs, ∃ ans, e = .r 1 ans) ∧
      1 ≤ evs.length ∧ evs.length ≤ 2 * (s.cfg.rspRetry + 1) ∧
      t.results = s.results ++ [(s.issuer, res)] ∧
      (res = .ok ∨ (∃ k, res = .fail (.transportError k)) ∨ (∃ b, res = .fail (.echoTimeout cmd b)) ∨
        ∃ b, res = .fail (.statusTimeout cmd b)) ∧
      s.SameOutside t ∧ s.SameCommand t ∧ s.SamePhase t ∧ t.order = s.order ∧ t.att = s.att ∧ s.SameBlock t ∧
      t.tmp = s.tmp ∧ s.SameBytes t

/-! ## Data frames -/

/-- The three write headers (30_encoding R84, 42_spi_data R151) executed by themselves (log entry 12): `DATA_HDR_FIRST`,
`DATA_HDR_MIDDLE`, `DATA_HDR_LAST` send `F1`, `F2`, `F3`, each in its own burst, and leave the code in `ORDER`. -/
def Obligations.WriteHeadersAreSent : Prop :=
  ∀ (s : State) (i : Instr) (code : Byte) (bs : List Byte) (rest : List Answer), s.onBus →
    ((i = .dataHdrFirst ∧ code = 1) ∨ (i = .dataHdrMiddle ∧ code = 2) ∨ (i = .dataHdrLast ∧ code = 3)) →
    s.oracle = .good bs :: rest →
    ∃ t, exec i s = .next t ∧ s.Did t s.issuer [.w [0xF0 ||| code] true] rest .ok ∧
      t.order.setWidth 8 = code ∧ s.SameCommand t ∧ s.SameResponse t ∧ s.SamePhase t ∧ t.att = s.att ∧
      s.SameBlock t ∧ t.tmp = s.tmp ∧ s.SameBytes t

/-- The row `DATA_RSP_HDR` (30_encoding R85, 42_spi_data R150; log entry 12): reads until a byte whose bits 7:4 are `0xF`, its
low nibble ignored, with at most `RSP_RETRY` retries; with none it fails with `DataRspTimeout`. `RK` keeps the low 4 bits of
its count (10_state R27; log entry 24). -/
def Obligations.ReadHeaderIsAwaited : Prop :=
  ∀ (s : State) (x : BitVec 4) (es : List Byte) (b : Byte) (rest : List Answer), s.onBus →
    (∀ e ∈ es, e.extractLsb' 4 4 ≠ 0xF) → s.oracle = scriptOf (readsOf (es ++ [b])) ++ rest →
    (es.length ≤ s.cfg.rspRetry → b.extractLsb' 4 4 = 0xF →
      ∃ t, exec (.dataRspHdr x) s = .next t ∧ s.Did t s.issuer (readsOf (es ++ [b])) rest .ok ∧
        t.rsp = b ∧ t.rk = BitVec.ofNat 4 es.length ∧ s.SameCommand t ∧ s.SamePhase t ∧ t.order = s.order ∧ t.att = s.att ∧
        s.SameBlock t ∧ t.tmp = s.tmp ∧ s.SameBytes t) ∧
    (es.length = s.cfg.rspRetry → b.extractLsb' 4 4 ≠ 0xF →
      ∃ t, exec (.dataRspHdr x) s = .next t ∧ s.Did t s.issuer (readsOf (es ++ [b])) rest (.fail (.dataRspTimeout b)))

/-- `SPI_DATA_WRITE` (42_spi_data R151, R152): `ceil(size / DATA_PKT_SZ)` frames, headers `F3` alone or `F1 F2 .. F2 F3`, the
buffer's bytes once each in order, a `00 00` trailer after each body when `CRC_OFF = 0`; `ok`. A byte the host has not given a
value is any byte (log entry 8). -/
def Obligations.DataWriteSendsEveryFrame : Prop :=
  ∀ (s : State) (buf : BufId) (off : Nat) (size : BitVec 16) (rest : List Answer), s.onBus →
    s.bufferReady s.issuer buf off size.toNat false →
    s.oracle = writeAnswers s.cfg s.crcOff size.toNat ++ rest →
    ∃ t bs, exec (.spiDataWrite buf off size) s = .next t ∧ bs.length = size.toNat ∧
      s.agrees buf off bs ∧
      s.Did t s.issuer (writePhase s.crcOff (piecesOf s.cfg.dataPktSz bs.length bs)) rest .ok ∧
      t.ix = size ∧ t.rem = 0 ∧ t.order = 3 ∧ s.SameCommand t ∧ s.SameResponse t ∧ t.att = s.att ∧ s.SameBlock t ∧ t.tmp = s.tmp ∧
      s.SameBytes t

/-- A write burst that answers `err` ends `SPI_DATA_WRITE` at once (42_spi_data R151): the bursts before it stay sent, it is the
last, nothing is read, and the buffer is as it was. A byte the host has not given a value is any byte (log entry 8); the cause
carries the burst's index in `H` (log entry 30). -/
def Obligations.DataWriteStopsAtFirstError : Prop :=
  ∀ (s : State) (buf : BufId) (off : Nat) (size : BitVec 16) (j : Nat) (rest : List Answer), s.onBus →
    s.bufferReady s.issuer buf off size.toNat false → j < (writeAnswers s.cfg s.crcOff size.toNat).length →
    s.oracle = List.replicate j (.good []) ++ .err :: rest →
    ∃ t bs burst, exec (.spiDataWrite buf off size) s = .next t ∧ bs.length = size.toNat ∧
      s.agrees buf off bs ∧
      (writePhase s.crcOff (piecesOf s.cfg.dataPktSz bs.length bs))[j]? = some (.w burst true) ∧
      s.Did t s.issuer ((writePhase s.crcOff (piecesOf s.cfg.dataPktSz bs.length bs)).take j ++ [.w burst false]) rest
        (.fail (.transportError (s.h.length + j))) ∧
      s.SameCommand t ∧ s.SameResponse t ∧ t.att = s.att ∧ s.SameBlock t ∧ t.tmp = s.tmp ∧ s.SameBytes t

/-- `SPI_DATA_READ` (42_spi_data R150, R152) answered by a slave that sends the frames: the bodies, once each in order, land in
the buffer from `off` on and nowhere else; the trailers, present when `CRC_OFF = 0` and `clk = 0`, are read and discarded. -/
def Obligations.DataReadFillsTheBuffer : Prop :=
  ∀ (s : State) (buf : BufId) (off : Nat) (size : BitVec 16) (clk : Bool) (bs : List Byte) (fs : List SlaveFrame)
    (rest : List Answer), s.onBus → s.bufferReady s.issuer buf off size.toNat true → bs.length = size.toNat →
    fs.map (fun f => f.body) = piecesOf s.cfg.dataPktSz bs.length bs → (∀ f ∈ fs, f.accepted s.cfg.rspRetry) →
    s.oracle = scriptOf (readPhase (!s.crcOff && !clk) fs) ++ rest →
    ∃ t, exec (.spiDataRead buf off size clk) s = .next t ∧
      s.Did t s.issuer (readPhase (!s.crcOff && !clk) fs) rest .ok ∧
      t.mem.known? buf size.toNat off = some bs ∧
      s.SameBytesBut t buf off size.toNat ∧
      t.ix = size ∧ t.rem = 0 ∧ s.SameCommand t ∧ t.order = s.order ∧ t.att = s.att ∧ s.SameBlock t ∧ t.tmp = s.tmp

/-- Whatever the transport answers, `SPI_DATA_READ` ends (42_spi_data R150, 43_transactions R176, 60_exceptions R224): after at
most `RSP_RETRY + 3` reads a frame; with `ok` and every byte of the region given a value, or with `fail` and no byte of it
holding one; no other byte of any buffer changes. -/
def Obligations.DataReadEndsOrLosesTheRegion : Prop :=
  ∀ (s : State) (buf : BufId) (off : Nat) (size : BitVec 16) (clk : Bool), s.onBus →
    s.bufferReady s.issuer buf off size.toNat true →
    ∃ t evs res, exec (.spiDataRead buf off size clk) s = .next t ∧ t.h = s.h ++ evs ∧
      (∀ e ∈ evs, ∃ n ans, e = .r n ans) ∧
      evs.length ≤ (s.cfg.rspRetry + 3) * frameCount s.cfg size.toNat ∧
      t.results = s.results ++ [(s.issuer, res)] ∧
      ((res = .ok ∧ ∃ bs, t.mem.known? buf size.toNat off = some bs) ∨
        ((∃ c, res = .fail c) ∧ t.lostBytes buf off size.toNat)) ∧
      s.SameBytesBut t buf off size.toNat ∧ s.SameOutside t ∧ s.SameCommand t ∧ t.order = s.order ∧
      t.att = s.att ∧ s.SameBlock t ∧ t.tmp = s.tmp

/-- The two splits, on the events that operations append (42_spi_data R152, 44_bus_abstraction R196). `SPI_DATA_WRITE` and
`SPI_DATA_READ` append exactly `ceil(size / DATA_PKT_SZ)` data frames, each with its slice of the bytes, full but for the last,
the written ones headed `F3` alone or `F1 F2 .. F2 F3`. `WRITE_BLOCK` and `READ_BLOCK`, run to their end by steps, append
exactly `ceil(size / C)` locked units, unit `k` with the command frame of address `(addr + C * k) mod 2^32` and its slice's
length, and inside it the data frames of that slice. Every byte is moved once, in order. -/
def Obligations.PiecesTileTheRegion : Prop :=
  (∀ (s : State) (buf : BufId) (off : Nat) (size : BitVec 16) (clk : Bool) (bs : List Byte) (rest : List Answer), s.onBus →
    bs.length = size.toNat →
    (s.bufferReady s.issuer buf off size.toNat false → s.mem.known? buf size.toNat off = some bs →
      s.oracle = writeAnswers s.cfg s.crcOff size.toNat ++ rest →
      ∃ t evs, exec (.spiDataWrite buf off size) s = .next t ∧ t.h = s.h ++ evs ∧ t.oracle = rest ∧
        FramesWritten s.cfg.dataPktSz (!s.crcOff) bs evs) ∧
    (s.bufferReady s.issuer buf off size.toNat true →
      s.oracle = readAnswers s.cfg.dataPktSz (!s.crcOff && !clk) bs ++ rest →
      ∃ t evs, exec (.spiDataRead buf off size clk) s = .next t ∧ t.h = s.h ++ evs ∧ t.oracle = rest ∧
        FramesRead s.cfg.dataPktSz (!s.crcOff && !clk) bs evs ∧
        t.mem.known? buf size.toNat off = some bs)) ∧
  (∀ (s : State) (r : Nat) (adr : Word) (buf : BufId) (size : Word) (bs : List Byte) (sched : List Nat) (rest : List Answer),
    s.admits r → s.lock = .free → s.cfg.success = 0 → bs.length = size.toNat →
    let C := chunkSize s.cfg
    let K := pieceCount C bs.length
    s.sched = List.replicate (K - 1) r ++ sched →
    (s.bufferReady r buf 0 size.toNat false → s.mem.known? buf size.toNat 0 = some bs →
      s.oracle = ((List.range K).map fun k =>
        commandAnswers s.cfg.opc.dmaExtWrite ++ writeAnswers s.cfg s.crcOff (sliceOf C bs k).length).flatten ++ rest →
      ∃ t u evs, exec (.writeBlock r adr buf size) s = .next t ∧ Host.Core.run Sys2Proof.core (K - 1) t = .next u ∧
        u.h = s.h ++ evs ∧ u.oracle = rest ∧ u.sched = sched ∧ u.results = s.results ++ [(r, .code 0)] ∧ Tiles C bs ∧
        ChunksMoved s.cfg s.crcOff r C s.cfg.opc.dmaExtWrite adr bs (FramesWritten s.cfg.dataPktSz (!s.crcOff)) evs) ∧
    (s.bufferReady r buf 0 size.toNat true →
      s.oracle = ((List.range K).map fun k =>
        commandAnswers s.cfg.opc.dmaExtRead ++ readAnswers s.cfg.dataPktSz (!s.crcOff) (sliceOf C bs k)).flatten ++ rest →
      ∃ t u evs, exec (.readBlock r adr buf size) s = .next t ∧ Host.Core.run Sys2Proof.core (K - 1) t = .next u ∧
        u.h = s.h ++ evs ∧ u.oracle = rest ∧ u.sched = sched ∧ u.results = s.results ++ [(r, .code 0)] ∧ Tiles C bs ∧
        ChunksMoved s.cfg s.crcOff r C s.cfg.opc.dmaExtRead adr bs (FramesRead s.cfg.dataPktSz (!s.crcOff)) evs ∧
        u.mem.known? buf size.toNat 0 = some bs))

/-- An operation of size 0 is refused (42_spi_data R153): both data phases, both block transactions, both block operations. A
16-bit size is at most 65535, and a chunk's size is always from 1 to 65535. -/
def Obligations.SizeZeroIsRefused : Prop :=
  (∀ (s : State) (buf : BufId) (off : Nat) (adr : Word) (clk : Bool), s.onBus →
    exec (.spiDataRead buf off 0 clk) s = .refused .sizeZero ∧ exec (.spiDataWrite buf off 0) s = .refused .sizeZero ∧
    exec (.xblkRd adr buf off 0) s = .refused .sizeZero ∧ exec (.xblkWr adr buf off 0) s = .refused .sizeZero) ∧
  (∀ (s : State) (r : Nat) (buf : BufId) (adr : Word), s.admits r →
    exec (.readBlock r adr buf 0) s = .refused .sizeZero ∧ exec (.writeBlock r adr buf 0) s = .refused .sizeZero) ∧
  (∀ size : BitVec 16, size.toNat ≤ 65535) ∧
  (∀ (c : Cfg) (b : BlockOp), c.wf = true → chunkSize c * b.chunk < b.size.toNat →
    1 ≤ chunkBytes c b ∧ chunkBytes c b ≤ 65535)

/-- A buffer that the host declared shorter than the operation needs is refused (20_memory R51; log entry 9), and so is a buffer
that another requester's block operation is using, at whatever offset, when one of the two writes it, to every operation on a
buffer (70_reset R258, 93 U21; log entry 16). -/
def Obligations.UnusableBuffersAreRefused : Prop :=
  (∀ (s : State) (buf : BufId) (off : Nat) (adr : Word) (n : BitVec 16) (clk : Bool), s.onBus → n ≠ 0 →
    s.bufShort buf (off + n.toNat) = true →
    exec (.spiDataRead buf off n clk) s = .refused .bufferTooShort ∧
    exec (.spiDataWrite buf off n) s = .refused .bufferTooShort ∧
    exec (.xblkRd adr buf off n) s = .refused .bufferTooShort ∧
    exec (.xblkWr adr buf off n) s = .refused .bufferTooShort) ∧
  (∀ (s : State) (r : Nat) (buf : BufId) (adr size : Word), s.admits r → size ≠ 0 →
    s.bufShort buf size.toNat = true →
    exec (.readBlock r adr buf size) s = .refused .bufferTooShort ∧
    exec (.writeBlock r adr buf size) s = .refused .bufferTooShort) ∧
  (∀ (s : State) (r q : Nat) (p : SeqPos) (b : BlockOp) (adr size : Word), s.admits r → size ≠ 0 →
    s.bufShort b.buf size.toNat = false → q ≠ r → s.seqOf q = some p → p.block? = some b →
    exec (.readBlock r adr b.buf size) s = .refused .bufferInUse ∧
    (b.write = false → exec (.writeBlock r adr b.buf size) s = .refused .bufferInUse)) ∧
  (∀ (s : State) (q : Nat) (p : SeqPos) (b : BlockOp) (adr : Word) (off : Nat) (n : BitVec 16) (clk : Bool), s.onBus →
    n ≠ 0 → s.bufShort b.buf (off + n.toNat) = false → q ≠ s.issuer → s.seqOf q = some p → p.block? = some b →
    exec (.spiDataRead b.buf off n clk) s = .refused .bufferInUse ∧
    exec (.xblkRd adr b.buf off n) s = .refused .bufferInUse ∧
    (b.write = false → exec (.spiDataWrite b.buf off n) s = .refused .bufferInUse ∧
      exec (.xblkWr adr b.buf off n) s = .refused .bufferInUse))

/-! ## Bus reset and single-attempt transactions -/

/-- `SPI_RESET` (43_transactions R170, 70_reset R251): whatever the transport answers it returns, having sent the RESET frame in
one burst and then read 1 to `2 * (RSP_RETRY + 1)` bytes, also when the frame's burst failed; both results are dropped; `CRC_OFF`,
`LOCK` and everything else outside the two sub-operations stay. -/
def Obligations.BusResetAlwaysReturns : Prop :=
  ∀ (s : State), s.onBus →
    ∃ t ok evs, exec .spiReset s = .next t ∧
      t.h = s.h ++ .w (frameBytes s.cfg s.crcOff [s.cfg.opc.reset, 0xFF, 0xFF, 0xFF]) ok :: evs ∧
      (∀ a rest, s.oracle = a :: rest → ok = decide (a ≠ .err)) ∧
      (∀ e ∈ evs, ∃ ans, e = .r 1 ans) ∧ 1 ≤ evs.length ∧ evs.length ≤ 2 * (s.cfg.rspRetry + 1) ∧
      t.results = s.results ++ [(s.issuer, .done)] ∧ t.cmd = s.cfg.opc.reset ∧ t.clk = false ∧
      s.SameOutside t ∧ s.SamePhase t ∧ t.order = s.order ∧ t.att = s.att ∧ s.SameBlock t ∧ t.tmp = s.tmp ∧ s.SameBytes t

/-- `XREG_RD` answered (43_transactions R171, 20_memory R53): the internal command and no trailer up to `CLOCKLESS_RD_MAX`, the
single-word command and the trailer that `CRC_OFF = 0` asks for above it; the four bytes, least significant first, are the value
returned. No host buffer changes. -/
def Obligations.RegisterReadReturnsTheWord : Prop :=
  ∀ (s : State) (adr : Word) (d0 d1 d2 d3 : Byte) (fs : List SlaveFrame) (rest : List Answer), s.onBus →
    fs.map (fun f => f.body) = piecesOf s.cfg.dataPktSz 4 [d0, d1, d2, d3] → (∀ f ∈ fs, f.accepted s.cfg.rspRetry) →
    s.oracle = scriptOf (readRegEvents s.cfg s.crcOff adr fs) ++ rest →
    ∃ t, exec (.xregRd adr) s = .next t ∧
      s.Did t s.issuer (readRegEvents s.cfg s.crcOff adr fs) rest (.okWord (d3 ++ d2 ++ d1 ++ d0)) ∧
      t.tmp.take 4 = [d0, d1, d2, d3] ∧ t.order = s.order ∧ t.att = s.att ∧ s.SameBlock t ∧ s.SameBytes t

/-- `XREG_WR` answered (43_transactions R172): the internal command up to `CLOCKLESS_WR_MAX`, the single-word command above it,
the data inside the frame, most significant byte first, and no data phase. -/
def Obligations.RegisterWriteSendsTheWord : Prop :=
  ∀ (s : State) (adr dat : Word) (rest : List Answer), s.onBus →
    s.oracle = scriptOf (writeRegEvents s.cfg s.crcOff adr dat) ++ rest →
    ∃ t, exec (.xregWr adr dat) s = .next t ∧
      s.Did t s.issuer (writeRegEvents s.cfg s.crcOff adr dat) rest .ok ∧
      s.SamePhase t ∧ t.order = s.order ∧ t.tmp = s.tmp ∧ t.att = s.att ∧ s.SameBlock t ∧ s.SameBytes t

/-- `XBLK_RD` answered (43_transactions R173): the extended DMA command whatever the size, never clockless, then the data phase
into the buffer region and nowhere else. -/
def Obligations.BlockReadFillsTheBuffer : Prop :=
  ∀ (s : State) (adr : Word) (buf : BufId) (off : Nat) (n : BitVec 16) (bs : List Byte) (fs : List SlaveFrame)
    (rest : List Answer), s.onBus → s.bufferReady s.issuer buf off n.toNat true → bs.length = n.toNat →
    fs.map (fun f => f.body) = piecesOf s.cfg.dataPktSz bs.length bs → (∀ f ∈ fs, f.accepted s.cfg.rspRetry) →
    s.oracle = scriptOf (blockReadEvents s.cfg s.crcOff adr n.toNat fs) ++ rest →
    ∃ t, exec (.xblkRd adr buf off n) s = .next t ∧
      s.Did t s.issuer (blockReadEvents s.cfg s.crcOff adr n.toNat fs) rest .ok ∧
      t.mem.known? buf n.toNat off = some bs ∧ s.SameBytesBut t buf off n.toNat ∧
      t.order = s.order ∧ t.att = s.att ∧ s.SameBlock t ∧ t.tmp = s.tmp

/-- `XBLK_WR` answered (43_transactions R174): the extended DMA command, then the data phase from the buffer, and no
acknowledgement read after it. A byte the host has not given a value is any byte (log entry 8). -/
def Obligations.BlockWriteSendsTheBuffer : Prop :=
  ∀ (s : State) (adr : Word) (buf : BufId) (off : Nat) (n : BitVec 16) (rest : List Answer), s.onBus →
    s.bufferReady s.issuer buf off n.toNat false →
    s.oracle = commandAnswers s.cfg.opc.dmaExtWrite ++ writeAnswers s.cfg s.crcOff n.toNat ++ rest →
    ∃ t bs, exec (.xblkWr adr buf off n) s = .next t ∧ bs.length = n.toNat ∧ s.agrees buf off bs ∧
      s.Did t s.issuer (blockWriteEvents s.cfg s.crcOff adr bs) rest .ok ∧
      t.order = 3 ∧ t.att = s.att ∧ s.SameBlock t ∧ t.tmp = s.tmp ∧ s.SameBytes t

/-- The first failing part of an attempt hides the rest (43_transactions R171, 20_memory R61, 60_exceptions R223 (d); 95 V-X17).
When the response of `XREG_RD`, `XREG_WR`, `XBLK_RD` or `XBLK_WR` fails, the transaction has sent its command frame and read the
response, with no burst of a data phase, and returns `fail` with the response's cause: `EchoTimeout`, and then no status byte is
read; `StatusTimeout`; or `TransportError` from a read of either phase (its index: log entry 30). -/
def Obligations.FailedResponseSkipsTheData : Prop :=
  ∀ (s : State) (i : Instr) (body es ss sent : List Byte) (n : Nat) (last : Byte) (rest : List Answer), s.onBus →
    Transaction s i body n →
    let cmd := body.headD 0
    let frame := Event.w (frameBytes s.cfg s.crcOff body) true
    (∀ b ∈ es, b ≠ cmd) →
    (es.length = s.cfg.rspRetry → last ≠ cmd →
      s.oracle = .good sent :: scriptOf (readsOf (es ++ [last])) ++ rest →
      ∃ t, exec i s = .next t ∧
        s.Did t s.issuer (frame :: readsOf (es ++ [last])) rest (.fail (.echoTimeout cmd last))) ∧
    (es.length ≤ s.cfg.rspRetry → ss.length = s.cfg.rspRetry → (∀ b ∈ ss, b ≠ 0) → last ≠ 0 →
      s.oracle = .good sent :: scriptOf (readsOf (es ++ [cmd] ++ ss ++ [last])) ++ rest →
      ∃ t, exec i s = .next t ∧
        s.Did t s.issuer (frame :: readsOf (es ++ [cmd] ++ ss ++ [last])) rest (.fail (.statusTimeout cmd last))) ∧
    (es.length ≤ s.cfg.rspRetry → s.oracle = .good sent :: scriptOf (readsOf es) ++ .err :: rest →
      ∃ t, exec i s = .next t ∧
        s.Did t s.issuer (frame :: readsOf es ++ [.r 1 none]) rest (.fail (.transportError (s.h.length + 1 + es.length)))) ∧
    (es.length ≤ s.cfg.rspRetry → ss.length ≤ s.cfg.rspRetry → (∀ b ∈ ss, b ≠ 0) →
      s.oracle = .good sent :: scriptOf (readsOf (es ++ [cmd] ++ ss)) ++ .err :: rest →
      ∃ t, exec i s = .next t ∧
        s.Did t s.issuer (frame :: readsOf (es ++ [cmd] ++ ss) ++ [.r 1 none]) rest
          (.fail (.transportError (s.h.length + 1 + (es.length + 1 + ss.length)))))

/-- Failure entry, whatever the transport answers (60_exceptions R224, 43_transactions R176): each of `XREG_RD`, `XREG_WR`,
`XBLK_RD`, `XBLK_WR` ends with one result after a bounded number of transport calls; its first event is its command frame, and
its last when that burst fails; the mode, the lock and the rest outside the transient registers stay. After a success `ATT` and
the chunk loop's registers are as they were. After a failure every transient register holds a free value: the state is what
`voidTransients` leaves of one in which the attempt stood (log entry 6; the causes' index is log entry 30); a failed `XBLK_RD`
leaves no byte of its region a value. No byte outside the region changes, and a register operation or a block write changes
none. -/
def Obligations.AttemptsEndWhateverTheSlaveDoes : Prop :=
  ∀ (s : State) (i : Instr) (body : List Byte) (n : Nat), s.onBus → Transaction s i body n →
    ∃ t ok evs res, exec i s = .next t ∧ t.h = s.h ++ .w (frameBytes s.cfg s.crcOff body) ok :: evs ∧
      (∀ e ∈ evs, e.isBurst = true) ∧ evs.length + 1 ≤ n ∧ t.results = s.results ++ [(s.issuer, res)] ∧ s.SameOutside t ∧
      (ok = false → evs = [] ∧ res = .fail (.transportError s.h.length)) ∧
      (((∀ c, res ≠ .fail c) ∧ t.att = s.att ∧ s.SameBlock t) ∨
        (∃ c u, res = .fail c ∧ s.SameOutside u ∧ t = { u.voidTransients with mem := t.mem }.report s.issuer (.fail c))) ∧
      (storedTo i = none → s.SameBytes t) ∧
      (∀ buf off m, storedTo i = some (buf, off, m) →
        s.SameBytesBut t buf off m ∧ ((∃ c, res = .fail c) → t.lostBytes buf off m))

/-! ## Reset and retry -/

/-- `RETRY(X)` (43_transactions R175, 60_exceptions R224, R225), for any transaction: it succeeds with `X`'s value after `k`
failed rounds exactly when `k < n`, each of `k` attempts failed and was followed by a bus reset, and the next succeeded; it fails
exactly when `n` attempts failed, the last followed by a bus reset too; the cause is lost. Here `n` is `OP_RETRY`; with `OP_RETRY
= 0` it is 16, where the 4 bits of `ATT` (10_state R27) come back to 0 (log entries 7, 24). -/
def Obligations.RetryCountsAttempts : Prop :=
  ∀ (α : Type) (x : Op α) (s u : State) (n : Nat), (1 ≤ s.cfg.opRetry → n = s.cfg.opRetry) →
    (s.cfg.opRetry = 0 → n = 16) →
    BitVec.ofNat 4 n = BitVec.ofNat 4 s.cfg.opRetry ∧
    (∀ a : α, retry x s = (.ok a, u) ↔ ∃ k t, k < n ∧ FailedRounds x k { s with att := 0 } t ∧ x t = (.ok a, u)) ∧
    (∀ c : Cause, retry x s = (.fail c, u) ↔ c = .retryExhausted ∧ FailedRounds x n { s with att := 0 } u)

/-- A register operation answered at once (`k = 0`), or after `k` rounds, fewer than the attempts of `RETRY`, in which the
transport was dead (44_bus_abstraction R191, R192, 43_transactions R175): one locked unit, in it `k` failed attempts with a bus
reset after each and then the whole transaction from its command frame; `WRITE_REG` returns the success code, `READ_REG` the
code and the word, least significant byte first; `ATT` is `k` in its 4 bits (10_state R27; log entries 7, 24); no host buffer
changes. -/
def Obligations.RegisterOperationsSucceed : Prop :=
  ∀ (s : State) (r k : Nat) (adr dat : Word) (d0 d1 d2 d3 : Byte) (fs : List SlaveFrame) (rest : List Answer), s.admits r →
    s.lock = .free → k < attempts s.cfg →
    (s.oracle = List.replicate (3 * k) .err ++ scriptOf (writeRegEvents s.cfg s.crcOff adr dat) ++ rest →
      ∃ t, exec (.writeReg r adr dat) s = .next t ∧
        s.Did t r (unitOf r (deadRounds k s.cfg s.crcOff (writeRegBody s.cfg adr dat) ++
          writeRegEvents s.cfg s.crcOff adr dat)) rest (.code s.cfg.success) ∧
        t.att = BitVec.ofNat 4 k ∧ (k = 0 → s.SamePhase t ∧ t.order = s.order ∧ t.tmp = s.tmp ∧ s.SameBlock t) ∧ s.SameBytes t) ∧
    (fs.map (fun f => f.body) = piecesOf s.cfg.dataPktSz 4 [d0, d1, d2, d3] → (∀ f ∈ fs, f.accepted s.cfg.rspRetry) →
      s.oracle = List.replicate (3 * k) .err ++ scriptOf (readRegEvents s.cfg s.crcOff adr fs) ++ rest →
      ∃ t, exec (.readReg r adr) s = .next t ∧
        s.Did t r (unitOf r (deadRounds k s.cfg s.crcOff (readRegBody s.cfg adr) ++
          readRegEvents s.cfg s.crcOff adr fs)) rest (.codeWord s.cfg.success (some (d3 ++ d2 ++ d1 ++ d0))) ∧
        t.att = BitVec.ofNat 4 k ∧ t.tmp.take 4 = [d0, d1, d2, d3] ∧ (k = 0 → t.order = s.order ∧ s.SameBlock t) ∧ s.SameBytes t)

/-- A dead bus (44_bus_abstraction R191, R192, R194, R195, 43_transactions R175; 95 V-T5): every call answered `err`, each of
the four operations makes exactly the attempts of `RETRY`, `OP_RETRY` of them (log entries 7, 24), and as many bus resets,
returns `M2M_ERR_BUS_FAIL`, a read with no value, and has given the lock back. A block operation moves nothing more; a failed
`READ_BLOCK` leaves its whole region without a value. -/
def Obligations.DeadBusEndsInBusFail : Prop :=
  ∀ (s : State) (r : Nat) (adr dat : Word) (buf : BufId) (size : Word) (rest : List Answer), s.admits r → s.lock = .free →
    s.oracle = List.replicate (3 * attempts s.cfg) .err ++ rest →
    (∃ t, exec (.readReg r adr) s = .next t ∧
      s.Did t r (unitOf r (deadRounds (attempts s.cfg) s.cfg s.crcOff (readRegBody s.cfg adr))) rest
        (.codeWord s.cfg.errBusFail none) ∧ t.att = BitVec.ofNat 4 (attempts s.cfg) ∧ s.SameBytes t) ∧
    (∃ t, exec (.writeReg r adr dat) s = .next t ∧
      s.Did t r (unitOf r (deadRounds (attempts s.cfg) s.cfg s.crcOff (writeRegBody s.cfg adr dat))) rest
        (.code s.cfg.errBusFail) ∧ t.att = BitVec.ofNat 4 (attempts s.cfg) ∧ s.SameBytes t) ∧
    (s.bufferReady r buf 0 size.toNat true →
      ∃ t n, exec (.readBlock r adr buf size) s = .next t ∧ n = min size.toNat (chunkSize s.cfg) ∧
        t.h = s.h ++ unitOf r (deadRounds (attempts s.cfg) s.cfg s.crcOff (blockBody s.cfg.opc.dmaExtRead adr n)) ∧
        t.oracle = rest ∧ t.results = s.results ++ [(r, .code s.cfg.errBusFail)] ∧ t.seqs = s.seqs ∧ s.SameBase t ∧
        t.lostBytes buf 0 size.toNat ∧ s.SameBytesBut t buf 0 size.toNat) ∧
    (s.bufferReady r buf 0 size.toNat false →
      ∃ t n, exec (.writeBlock r adr buf size) s = .next t ∧ n = min size.toNat (chunkSize s.cfg) ∧
        t.h = s.h ++ unitOf r (deadRounds (attempts s.cfg) s.cfg s.crcOff (blockBody s.cfg.opc.dmaExtWrite adr n)) ∧
        t.oracle = rest ∧ t.results = s.results ++ [(r, .code s.cfg.errBusFail)] ∧ t.seqs = s.seqs ∧ s.SameBase t ∧
        s.SameBytes t)

/-! ## The bus abstraction -/

/-- Whatever the transport answers, a register operation ends (44_bus_abstraction R191, R192, 43_transactions R176): one locked
unit of nothing but bursts, no more of them than R176 allows, the lock given back on every path, and either the success code, a
read with its word, or `M2M_ERR_BUS_FAIL`, a read with none, after the last of `RETRY`'s attempts (log entries 7, 24). -/
def Obligations.RegisterOperationsAreLockedUnits : Prop :=
  ∀ (s : State) (r : Nat) (adr dat : Word), s.admits r → s.lock = .free →
    (∃ t inner res, exec (.readReg r adr) s = .next t ∧ s.Did t r (unitOf r inner) t.oracle res ∧
      (∀ e ∈ inner, e.isBurst = true) ∧ 1 ≤ inner.length ∧
      inner.length ≤ retryCalls s.cfg (commandCalls s.cfg + readCalls s.cfg 4) ∧ s.SameBytes t ∧
      (((∃ v, res = .codeWord s.cfg.success (some v)) ∧ ∃ k, k < attempts s.cfg ∧ t.att = BitVec.ofNat 4 k) ∨
        (res = .codeWord s.cfg.errBusFail none ∧ t.att = BitVec.ofNat 4 (attempts s.cfg)))) ∧
    (∃ t inner res, exec (.writeReg r adr dat) s = .next t ∧ s.Did t r (unitOf r inner) t.oracle res ∧
      (∀ e ∈ inner, e.isBurst = true) ∧ 1 ≤ inner.length ∧
      inner.length ≤ retryCalls s.cfg (commandCalls s.cfg) ∧ s.SameBytes t ∧
      ((res = .code s.cfg.success ∧ ∃ k, k < attempts s.cfg ∧ t.att = BitVec.ofNat 4 k) ∨
        (res = .code s.cfg.errBusFail ∧ t.att = BitVec.ofNat 4 (attempts s.cfg))))

/-- `WRITE_BLOCK` whose size is at most the chunk size (44_bus_abstraction R193, R195): one locked unit, code 0, the registers as
the pseudocode leaves them. A byte the host has not given a value is any byte (log entry 8). -/
def Obligations.WriteBlockOfOneChunk : Prop :=
  ∀ (s : State) (r : Nat) (adr : Word) (buf : BufId) (size : Word) (rest : List Answer), s.admits r → s.lock = .free →
    s.cfg.success = 0 → s.bufferReady r buf 0 size.toNat false → size.toNat ≤ chunkSize s.cfg →
    s.oracle = commandAnswers s.cfg.opc.dmaExtWrite ++ writeAnswers s.cfg s.crcOff size.toNat ++ rest →
    ∃ t bs, exec (.writeBlock r adr buf size) s = .next t ∧ bs.length = size.toNat ∧ s.agrees buf 0 bs ∧
      t.h = s.h ++ unitOf r (blockWriteEvents s.cfg s.crcOff adr bs) ∧ t.oracle = rest ∧
      t.results = s.results ++ [(r, .code 0)] ∧ t.seqs = s.seqs ∧ s.SameBase t ∧
      t.addr = adr ∧ t.off = 0 ∧ t.sz = size ∧ t.acc = 0 ∧ t.att = 0 ∧ t.order = 3 ∧ t.tmp = s.tmp ∧ s.SameBytes t

/-- `READ_BLOCK` whose size is at most the chunk size (44_bus_abstraction R193, R194): one locked unit, code 0, the bytes in the
buffer from offset 0 on and nowhere else. -/
def Obligations.ReadBlockOfOneChunk : Prop :=
  ∀ (s : State) (r : Nat) (adr : Word) (buf : BufId) (size : Word) (bs : List Byte) (fs : List SlaveFrame)
    (rest : List Answer), s.admits r → s.lock = .free → s.cfg.success = 0 → s.bufferReady r buf 0 size.toNat true →
    size.toNat ≤ chunkSize s.cfg → bs.length = size.toNat →
    fs.map (fun f => f.body) = piecesOf s.cfg.dataPktSz bs.length bs → (∀ f ∈ fs, f.accepted s.cfg.rspRetry) →
    s.oracle = scriptOf (blockReadEvents s.cfg s.crcOff adr size.toNat fs) ++ rest →
    ∃ t, exec (.readBlock r adr buf size) s = .next t ∧
      t.h = s.h ++ unitOf r (blockReadEvents s.cfg s.crcOff adr size.toNat fs) ∧ t.oracle = rest ∧
      t.results = s.results ++ [(r, .code 0)] ∧ t.seqs = s.seqs ∧ s.SameBase t ∧
      t.mem.known? buf size.toNat 0 = some bs ∧ s.SameBytesBut t buf 0 size.toNat ∧
      t.addr = adr ∧ t.off = 0 ∧ t.sz = size ∧ t.acc = 0 ∧ t.att = 0 ∧ t.order = s.order ∧ t.tmp = s.tmp

/-- Every chunk, the first and the later ones, whatever the transport answers (44_bus_abstraction R194 to R197, 43_transactions
R176; 95 P6): from `READ_BLOCK` and `WRITE_BLOCK`, and from a step at any sound position between two chunks, with the lock free.
One locked unit with the chunk's command frame, and the lock free. Either the chunk failed and the operation is over with
`M2M_ERR_BUS_FAIL`, the region of a read from the chunk's offset to its end without a value, the chunks before it as they were,
the later ones not attempted; or it was the last and the operation is over with code 0; or the operation stands before the next
chunk, at `ADDR + C`, `OFF + C`, `SZ - C`. -/
def Obligations.FirstChunkWhateverTheSlaveDoes : Prop :=
  (∀ (s : State) (r : Nat) (w : Bool) (adr : Word) (buf : BufId) (size : Word) (i : Instr), s.admits r → s.lock = .free →
    s.cfg.success = 0 → s.bufferReady r buf 0 size.toNat (!w) →
    i = (if w then .writeBlock r adr buf size else .readBlock r adr buf size) →
    ∃ t, exec i s = .next t ∧ ChunkTurned s r ⟨w, buf, adr, size, 0⟩ t ∧ t.issuer = s.issuer ∧ t.sched = s.sched) ∧
  (∀ (s : State) (r : Nat) (b : BlockOp) (sched : List Nat), s.Sound → s.cfg.wf = true → s.lock = .free →
    s.cfg.success = 0 → s.sched = r :: sched → s.seqOf r = some (.block b) →
    ∃ t, step s = .next t ∧ ChunkTurned s r b t ∧ t.issuer = r ∧ t.sched = sched)

/-- The chunking law for a write (44_bus_abstraction R195, R196): with an answering slave and the scheduler turning to `r` each
time, `WRITE_BLOCK` moves the region in `ceil(size / C)` chunks, one a step, each a locked unit at address
`(addr + C * (k - 1)) mod 2^32`, and returns 0 after the last. -/
def Obligations.WriteBlockMovesEveryChunk : Prop :=
  ∀ (s : State) (r : Nat) (adr : Word) (buf : BufId) (size : Word) (bs : List Byte) (sched : List Nat) (rest : List Answer),
    s.admits r → s.lock = .free → s.cfg.success = 0 → s.bufferReady r buf 0 size.toNat false →
    s.mem.known? buf size.toNat 0 = some bs →
    let chunks := piecesOf (chunkSize s.cfg) bs.length bs
    s.sched = List.replicate (chunks.length - 1) r ++ sched →
    s.oracle = scriptOf (writeChunks s.cfg s.crcOff r adr chunks) ++ rest →
    ∃ t u, exec (.writeBlock r adr buf size) s = .next t ∧
      Host.Core.run Sys2Proof.core (chunks.length - 1) t = .next u ∧
      u.h = s.h ++ writeChunks s.cfg s.crcOff r adr chunks ∧ u.oracle = rest ∧
      u.results = s.results ++ [(r, .code 0)] ∧ u.seqOf r = none ∧ (∀ q, q ≠ r → u.seqOf q = s.seqOf q) ∧
      u.lock = .free ∧ u.crcOff = s.crcOff ∧ u.cfg = s.cfg ∧ u.sched = sched ∧ s.SameBytes u

/-- The chunking law for a read (44_bus_abstraction R194, R196): the same chunks, and the slave's bytes fill the region. -/
def Obligations.ReadBlockMovesEveryChunk : Prop :=
  ∀ (s : State) (r : Nat) (adr : Word) (buf : BufId) (size : Word) (bs : List Byte) (fss : List (List SlaveFrame))
    (sched : List Nat) (rest : List Answer),
    s.admits r → s.lock = .free → s.cfg.success = 0 → s.bufferReady r buf 0 size.toNat true → bs.length = size.toNat →
    fss.map (fun fs => fs.map (fun f => f.body)) =
      (piecesOf (chunkSize s.cfg) bs.length bs).map (fun p => piecesOf s.cfg.dataPktSz p.length p) →
    (∀ fs ∈ fss, ∀ f ∈ fs, f.accepted s.cfg.rspRetry) →
    s.sched = List.replicate (fss.length - 1) r ++ sched →
    s.oracle = scriptOf (readChunks s.cfg s.crcOff r adr fss) ++ rest →
    ∃ t u, exec (.readBlock r adr buf size) s = .next t ∧ Host.Core.run Sys2Proof.core (fss.length - 1) t = .next u ∧
      u.h = s.h ++ readChunks s.cfg s.crcOff r adr fss ∧ u.oracle = rest ∧
      u.results = s.results ++ [(r, .code 0)] ∧ u.seqOf r = none ∧ (∀ q, q ≠ r → u.seqOf q = s.seqOf q) ∧
      u.lock = .free ∧ u.crcOff = s.crcOff ∧ u.cfg = s.cfg ∧ u.sched = sched ∧
      u.mem.known? buf size.toNat 0 = some bs ∧ s.SameBytesBut u buf 0 size.toNat

/-- The round trip (20_memory R66): `WRITE_BLOCK` from one buffer, then `READ_BLOCK` of the same region into another, with a slave
that answers every command and gives back, chunk by chunk, the bytes it was sent: both return 0 and the second buffer holds what
the first does. -/
def Obligations.WriteThenReadRoundTrip : Prop :=
  ∀ (s : State) (r : Nat) (adr : Word) (b1 b2 : BufId) (size : Word) (bs : List Byte) (rest : List Answer),
    s.admits r → s.lock = .free → s.cfg.success = 0 → b1 ≠ b2 → s.bufferReady r b1 0 size.toNat false →
    s.bufferReady r b2 0 size.toNat true → s.mem.known? b1 size.toNat 0 = some bs →
    adr.extractLsb' 24 8 = 0 → adr.toNat + size.toNat ≤ 2 ^ 24 →
    let chunks := piecesOf (chunkSize s.cfg) bs.length bs
    let frames := chunks.map (plainFrames s.cfg.dataPktSz)
    s.sched = List.replicate (2 * (chunks.length - 1)) r →
    s.oracle = scriptOf (writeChunks s.cfg s.crcOff r adr chunks ++ readChunks s.cfg s.crcOff r adr frames) ++ rest →
    ∃ t u v w, exec (.writeBlock r adr b1 size) s = .next t ∧
      Host.Core.run Sys2Proof.core (chunks.length - 1) t = .next u ∧
      exec (.readBlock r adr b2 size) u = .next v ∧ Host.Core.run Sys2Proof.core (chunks.length - 1) v = .next w ∧
      w.h = s.h ++ writeChunks s.cfg s.crcOff r adr chunks ++ readChunks s.cfg s.crcOff r adr frames ∧
      w.results = s.results ++ [(r, .code 0), (r, .code 0)] ∧
      w.mem.known? b1 size.toNat 0 = some bs ∧ w.mem.known? b2 size.toNat 0 = some bs

/-- The mode flag (44_bus_abstraction R198): `SET_CRC` writes `CRC_OFF` and nothing else, with no transport call; it is refused
while another requester holds the lock; request-port code `0x1C`; after `SET_CRC(1)`, `SPI_CMD(0xCF, 0, 0, 0, 0)` under the
opcode map of 30_encoding R81 sends `cf ff ff ff`. -/
def Obligations.SetCrcWritesTheModeFlag : Prop :=
  ∀ (s : State) (off : Bool), s.admits s.issuer →
    (s.lock = .free ∨ s.lock = .held s.issuer →
      exec (.setCrc off) s = .next ({ s with crcOff := off }.report s.issuer .done)) ∧
    (∀ q, q ≠ s.issuer → s.lock = .held q → exec (.setCrc off) s = .refused .lockHeldByOther) ∧
    (encode s.cfg.opc (.setCrc off)).head? = some 0x1C ∧
    (∀ rest, s.onBus → s.cfg.opc = defaultOpc → s.oracle = .good [] :: rest →
      ∃ t u, exec (.setCrc true) s = .next t ∧ exec (.spiCmd 0xCF 0 0 0 false) t = .next u ∧
        u.h = s.h ++ [.w [0xCF, 0xFF, 0xFF, 0xFF] true])

/-- The lock (44_bus_abstraction R190): a free lock is taken, the holder gives it back, each with its event and nothing else; a
release by anyone else is refused; codes `0x1D`, `0x1E`. -/
def Obligations.LockIsTakenAndGivenBack : Prop :=
  ∀ (s : State) (r : Nat), s.admits r →
    (s.lock = .free →
      exec (.lockAcquire r) s = .next ({ s with lock := .held r, h := s.h ++ [Event.acq r] }.report r .done)) ∧
    (s.lock = .held r →
      exec (.lockRelease r) s = .next ({ s with lock := .free, h := s.h ++ [Event.rel r] }.report r .done)) ∧
    (s.lock ≠ .held r → exec (.lockRelease r) s = .refused .releaseByNonHolder) ∧
    (encode s.cfg.opc (.lockAcquire r)).head? = some 0x1D ∧ (encode s.cfg.opc (.lockRelease r)).head? = some 0x1E

/-- An operation of layer B that finds the lock taken waits (44_bus_abstraction R190): no event, no transport call, no result;
only the sequencer keeps it. -/
def Obligations.OperationsWaitForTheLock : Prop :=
  ∀ (s : State) (r : Nat) (adr dat : Word) (buf : BufId) (size : Word), s.admits r → s.lock ≠ .free →
    exec (.lockAcquire r) s = .next (s.setSeq r (.waiting (.lockAcquire r))) ∧
    exec (.readReg r adr) s = .next (s.setSeq r (.waiting (.readReg r adr))) ∧
    exec (.writeReg r adr dat) s = .next (s.setSeq r (.waiting (.writeReg r adr dat))) ∧
    (s.bufferReady r buf 0 size.toNat true →
      exec (.readBlock r adr buf size) s = .next (s.setSeq r (.block ⟨false, buf, adr, size, 0⟩))) ∧
    (s.bufferReady r buf 0 size.toNat false →
      exec (.writeBlock r adr buf size) s = .next (s.setSeq r (.block ⟨true, buf, adr, size, 0⟩)))

/-- A requester that waits goes on waiting while the lock is held (44_bus_abstraction R190, 60_exceptions R230): its step changes
nothing but the scheduler's script and whose step it was. -/
def Obligations.WaitingStepChangesNothing : Prop :=
  ∀ (s : State) (q : Nat) (p : SeqPos) (sched : List Nat), s.Sound → s.cfg.wf = true → s.sched = q :: sched →
    s.seqOf q = some p → s.lock ≠ .free → step s = .next { s with sched := sched, issuer := q }

/-- The lock is not reentrant (44_bus_abstraction R190, 70_reset R254, 93 U6): a requester that holds it and asks again waits for
itself for ever: no step of anyone ends it, and such a state is never the end of a run (R267). -/
def Obligations.SelfDeadlockIsForever : Prop :=
  ∀ (s t : State) (r : Nat), s.Sound → s.selfDeadlock r → step s = .next t → t.selfDeadlock r ∧ ¬ t.over

/-- Layers T and X need the lock (70_reset R253, 44_bus_abstraction R190, 93 U7): their operations are refused to a requester that
does not hold it, unless it is free and there is only one requester. The seventeen wire rows are refused with them: that a wire
row executed by itself needs the lock as layer T does is log entry 12. -/
def Obligations.TransportNeedsTheLock : Prop :=
  ∀ (s : State) (i : Instr), needsBus i = true → s.admits s.issuer →
    (s.lock ≠ .held s.issuer → (s.lock ≠ .free ∨ 1 < s.cfg.nreq) → exec i s = .refused .lockNotHeld) ∧
    (s.lock = .held s.issuer ∨ (s.lock = .free ∧ s.cfg.nreq = 1) → exec i s ≠ .refused .lockNotHeld)

/-- The guards every operation passes (00_scope R7, 93 U3; log entries 7, 26): under an ill-formed configuration every operation
and every step is refused, and so is an operation of a requester that does not exist or has one in progress. What makes a
configuration well-formed: R7's conditions, and the table's 256 entries, which R6 has in the field's type (log entry 7). -/
def Obligations.GuardsRefuse : Prop :=
  (∀ (s : State) (i : Instr), s.cfg.wf = false → exec i s = .refused .illFormedConfig ∧ step s = .refused .illFormedConfig) ∧
  (∀ (c : Cfg), c.wf = true ↔
    c.trxOverhead.toNat < c.maxTrxSz.toNat ∧ 1 ≤ c.dataPktSz ∧ c.errBusFail ≠ 0 ∧ c.opc.values.Nodup ∧
    (0 : Byte) ∉ c.opc.values ∧ 1 ≤ c.nreq ∧ c.crc7Table.length = 256) ∧
  (∀ (s : State) (i : Instr), s.cfg.wf = true →
    (s.cfg.nreq ≤ i.requester?.getD s.issuer → exec i s = .refused .noSuchRequester) ∧
    (i.requester?.getD s.issuer < s.cfg.nreq → (s.seqOf (i.requester?.getD s.issuer)).isSome = true →
      exec i s = .refused .requesterBusy))

/-! ## Steps, invariants, and the whole machine -/

/-- The state after block reset (10_state R33, 70_reset R250): CRC enabled, the lock free, nothing in progress, no event. The run
is over (70_reset R267). The values of the transient registers and of the open parameters are the model's (log entries 4, 5) and
nothing is said of them. -/
def Obligations.ResetState : Prop :=
  State.reset.crcOff = false ∧ State.reset.lock = .free ∧ State.reset.seqs = [] ∧ State.reset.h = [] ∧ State.reset.over

/-- A step runs the decoded instruction: the request at the port of the requester whose turn it is, decoded under `CFG.OPC`, is
executed on the state with the request taken away. A requester with an operation in progress goes on with it instead: it tries
the operation it waits with again, or takes a turn of the chunk loop from the position kept in `SEQ`. One with neither does
nothing. And a table word placed by `withFetchWord` is executed by the next step as the instruction it decodes to (log entries
11, 14, 20). -/
def Obligations.StepRunsDecodedInstruction : Prop :=
  (∀ (s : State) (q : Nat) (sched : List Nat), s.cfg.wf = true → s.sched = q :: sched →
    (∀ (x : Request) (port : List Request) (i : Instr), s.seqOf q = none → takeRequest q s.port = some (x, port) →
      decodeIn s.cfg.opc x.space x.word = .ok i → issuedBy q i = true →
      step s = exec i { s with sched := sched, port := port, issuer := q }) ∧
    (∀ i, s.seqOf q = some (.waiting i) →
      step s = exec i { s with sched := sched, issuer := q, seqs := s.seqs.filter (fun x => decide (x.1 ≠ q)) }) ∧
    (∀ b, s.seqOf q = some (.block b) →
      step s = .next (chunkTurn q b
        { s with sched := sched, issuer := q, seqs := s.seqs.filter (fun x => decide (x.1 ≠ q)) })) ∧
    (s.seqOf q = none → (∀ x ∈ s.port, x.who ≠ q) → step s = .next { s with sched := sched })) ∧
  (∀ (s : State) (nbits w : Nat) (i : Instr), s.cfg.wf = true → s.cfg.opc = defaultOpc → decodeTableWord nbits w = some i →
    step (s.withFetchWord nbits w) =
      exec i { s with
        issuer := i.requester?.getD s.issuer
        seqs := s.seqs.filter (fun x => decide (x.1 ≠ i.requester?.getD s.issuer)) })

/-- The machine's invariant holds after reset. -/
def Obligations.SoundAtReset : Prop := State.reset.Sound

/-- Every step keeps the machine's invariant, from every state that has it (10_state R22, R26, 20_memory R51, R62, 44_bus R190,
R197): the history stays a concatenation of whole locked units that accounts for the lock; the buffers' bytes keep their
canonical form; the command buffer and `tmp` keep their sizes; and the sequencer holds one sound position per requester. -/
def Obligations.StepKeepsSound : Prop :=
  ∀ (s t : State), s.Sound → step s = .next t → t.Sound

/-- A step is at most one locked unit of one requester (10_state R24, 20_memory R57, R62, 70_reset R253): from a sound state it
appends to the history nothing; or bursts alone, and then of a requester that may drive the bus; or one lock event, the lock
taken when it is free or given back by its holder; or one whole locked unit from a free lock. It takes nothing back, and gives at
most one result, to the requester whose step it is. -/
def Obligations.StepIsAtMostOneUnit : Prop :=
  ∀ (s t : State), s.Sound → step s = .next t →
    ∃ evs, t.h = s.h ++ evs ∧ oneUnit s s.turn.1 evs ∧
      (t.results = s.results ∨ ∃ v, t.results = s.results ++ [(s.turn.1, v)])

/-- What an operation, and what a step, may change of what outlives it (10_state R20, R25, R26, 20_memory R51, 70_reset R251): the
configuration never; `CRC_OFF` only by `SET_CRC`; `LOCK`, after an operation, only by `LOCK_ACQUIRE` of a free lock and
`LOCK_RELEASE` of the holder; `H` only grows; the bytes of the host buffers only by `SPI_DATA_READ`, `XBLK_RD` and `READ_BLOCK`,
each in its own region, a later chunk of `READ_BLOCK` in what is still to move. -/
def Obligations.OperationsChangeOnlyWhatIsNamed : Prop :=
  (∀ (s t : State) (i : Instr), exec i s = .next t →
    t.cfg = s.cfg ∧ s.h <+: t.h ∧
    (t.crcOff = s.crcOff ∨ i = .setCrc t.crcOff) ∧
    (t.lock = s.lock ∨ (∃ r, i = .lockAcquire r ∧ s.lock = .free ∧ t.lock = .held r) ∨
      (∃ r, i = .lockRelease r ∧ s.lock = .held r ∧ t.lock = .free)) ∧
    (storedTo i = none → s.SameBytes t) ∧ (∀ buf off n, storedTo i = some (buf, off, n) → s.SameBytesBut t buf off n)) ∧
  (∀ (s t : State), s.Sound → step s = .next t →
    t.cfg = s.cfg ∧ s.h <+: t.h ∧
    (t.crcOff = s.crcOff ∨ ∃ x rest, s.seqOf s.turn.1 = none ∧ takeRequest s.turn.1 s.port = some (x, rest) ∧
      decodeIn s.cfg.opc x.space x.word = .ok (.setCrc t.crcOff)) ∧
    (t.lock = s.lock ∨ (s.lock = .free ∧ t.lock = .held s.turn.1) ∨ (s.lock = .held s.turn.1 ∧ t.lock = .free)) ∧
    (s.stepStores = none → s.SameBytes t) ∧ (∀ buf off n, s.stepStores = some (buf, off, n) → s.SameBytesBut t buf off n))

/-! ## Every operation ends -/

/-- No failure path loops for ever (10_state R24, 60_exceptions R225, 43_transactions R176), whatever the transport answers and
whatever the bounds of the configuration are, `OP_RETRY = 0` included (log entry 7). Every instruction that answers a next state
has appended no more events than R176 allows it (a wire row: its part of `SPI_CMD`, `SPI_CMD_RSP` or a data frame, log entry 12),
and either it is over, with one result, or its requester's sequencer keeps it and it has none; that happens only to an operation
of layer B, and from a free lock only to a block operation. A block operation from a free lock, with the scheduler turning to its
requester, ends with a code after at most one step a chunk, in at most the calls of R176 and two lock events for each. -/
def Obligations.NoFailurePathLoopsForEver : Prop :=
  (∀ (s t : State) (i : Instr), exec i s = .next t →
    let who := i.requester?.getD s.issuer
    ∃ evs, t.h = s.h ++ evs ∧ evs.length ≤ mostEvents s.cfg i ∧
      ((t.seqs = s.seqs ∧ ∃ v, t.results = s.results ++ [(who, v)]) ∨
        (t.results = s.results ∧ (t.seqOf who).isSome = true ∧ i.requester? = some who ∧ (s.lock = .free → isBlockOp i)))) ∧
  (∀ (s : State) (r : Nat) (w : Bool) (adr : Word) (buf : BufId) (size : Word) (i : Instr) (sched : List Nat), s.admits r →
    s.lock = .free → s.bufferReady r buf 0 size.toNat (!w) →
    i = (if w then .writeBlock r adr buf size else .readBlock r adr buf size) →
    let K := pieceCount (chunkSize s.cfg) size.toNat
    s.sched = List.replicate (K - 1) r ++ sched →
    ∃ t u k evs c, exec i s = .next t ∧ k + 1 ≤ K ∧ Host.Core.run Sys2Proof.core k t = .next u ∧ u.h = s.h ++ evs ∧
      evs.length ≤ K * (chunkCalls s.cfg w size.toNat + 2) ∧
      u.results = s.results ++ [(r, .code c)] ∧ u.seqOf r = none ∧ u.lock = .free)
end

