-- ==== Sys2Proof/Laws/Memory.lean ====
section
/-! SUPPORT. The laws of the host buffers' bytes: read after write, every other byte left alone, and the canonical form kept. -/

namespace Sys2Proof.Machine

/-- Different bytes have different keys. -/
theorem bufKey_inj (g buf : BufId) (k a : Nat) : bufKey g k = bufKey buf a ↔ g = buf ∧ k = a := by
  have h1 := g.isLt
  have h2 := buf.isLt
  constructor
  · intro h
    simp only [bufKey] at h
    exact ⟨BitVec.eq_of_toNat_eq (by omega), by omega⟩
  · rintro ⟨rfl, rfl⟩
    rfl

theorem inRegion_bufKey (g buf : BufId) (off n k : Nat) :
    inRegion buf off n (bufKey g k) = decide (g = buf ∧ off ≤ k ∧ k < off + n) := by
  have h1 := g.isLt
  have h2 : bufKey g k % 2 ^ 16 = g.toNat := by simp only [bufKey]; omega
  have h3 : bufKey g k / 2 ^ 16 = k := by simp only [bufKey]; omega
  simp only [inRegion, h2, h3, ← Bool.decide_and, BitVec.toNat_inj, and_assoc]

theorem get?_nil (g : BufId) (k : Nat) : Memory.get? [] g k = none := rfl

theorem get?_cons (x : Nat) (v : Byte) (m : Memory) (g : BufId) (k : Nat) :
    Memory.get? ((x, v) :: m) g k = if bufKey g k = x then some v else m.get? g k := by
  by_cases h : bufKey g k = x
  · simp [Memory.get?, h]
  · simp [Memory.get?, List.lookup_cons, h, beq_eq_false_iff_ne.mpr h]

theorem get?_set (m : Memory) (g buf : BufId) (a k : Nat) (b : Byte) :
    (m.set (bufKey buf a) b).get? g k = if g = buf ∧ k = a then some b else m.get? g k := by
  simp only [← bufKey_inj]
  induction m with
  | nil => simp [Memory.set, get?_cons, get?_nil]
  | cons c m ih =>
    obtain ⟨x, v⟩ := c
    simp only [Memory.set]
    split_ifs <;> simp_all [get?_cons]

/-- A byte reads as it was last written. -/
theorem get?_set_self (m : Memory) (buf : BufId) (a : Nat) (b : Byte) : (m.set (bufKey buf a) b).get? buf a = some b := by
  simp [get?_set]

/-- A write leaves every other byte alone. -/
theorem get?_set_other (m : Memory) {g buf : BufId} {a k : Nat} (b : Byte) (h : ¬ (g = buf ∧ k = a)) :
    (m.set (bufKey buf a) b).get? g k = m.get? g k := by simp [get?_set, h]

theorem mem_set {m : Memory} {a : Nat} {b : Byte} {c : Host.Cell} (h : c ∈ m.set a b) : c.1 = a ∨ c ∈ m := by
  induction m with
  | nil => simp_all [Memory.set]
  | cons x m ih =>
    obtain ⟨k, v⟩ := x
    simp only [Memory.set] at h
    split_ifs at h
    · simp only [List.mem_cons] at h ⊢
      rcases h with rfl | h
      · exact .inl rfl
      · exact .inr h
    · simp only [List.mem_cons] at h ⊢
      rcases h with rfl | h
      · exact .inl rfl
      · exact .inr (.inr h)
    · simp only [List.mem_cons] at h ⊢
      rcases h with rfl | h
      · exact .inr (.inl rfl)
      · exact (ih h).imp id .inr

/-- Writing a byte keeps the canonical form. -/
theorem wf_set {m : Memory} (h : m.wf) (a : Nat) (b : Byte) : (m.set a b).wf := by
  induction m with
  | nil => simp [Memory.set, Memory.wf]
  | cons x m ih =>
    obtain ⟨k, v⟩ := x
    obtain ⟨hk, hm⟩ := List.pairwise_cons.mp h
    simp only [Memory.set]
    split_ifs with h1 h2
    · refine List.pairwise_cons.mpr ⟨fun c hc => ?_, h⟩
      rcases List.mem_cons.mp hc with rfl | hc
      · exact h1
      · exact lt_trans h1 (hk c hc)
    · subst h2
      exact List.pairwise_cons.mpr ⟨hk, hm⟩
    · refine List.pairwise_cons.mpr ⟨fun c hc => ?_, ih hm⟩
      rcases mem_set hc with hc | hc
      · simp only [hc]; omega
      · exact hk c hc

/-- Writing consecutive bytes keeps the canonical form. -/
theorem wf_writeRun {m : Memory} (h : m.wf) (buf : BufId) (a : Nat) (bs : List Byte) : (m.writeRun buf a bs).wf := by
  induction bs generalizing m a with
  | nil => exact h
  | cons b bs ih => exact ih (wf_set h _ b) (a + 1)

/-- Taking the value from bytes keeps the canonical form. -/
theorem wf_forget {m : Memory} (h : m.wf) (buf : BufId) (a n : Nat) : (m.forget buf a n).wf := h.filter _

/-- What `BufWrite` leaves: its bytes where it wrote, every other byte as it was. -/
theorem get?_writeRun (m : Memory) (g buf : BufId) (a k : Nat) (bs : List Byte) :
    (m.writeRun buf a bs).get? g k = if g = buf ∧ a ≤ k ∧ k < a + bs.length then bs[k - a]? else m.get? g k := by
  induction bs generalizing m a with
  | nil =>
    have : ¬ (g = buf ∧ a ≤ k ∧ k < a + 0) := by omega
    simp only [Memory.writeRun, List.length_nil, this, if_false]
  | cons b bs ih =>
    simp only [Memory.writeRun, ih, get?_set, List.length_cons]
    by_cases hg : g = buf
    · subst hg
      by_cases hk : k = a
      · subst hk; simp
      · by_cases hlt : a ≤ k ∧ k < a + (bs.length + 1)
        · have h1 : a + 1 ≤ k ∧ k < a + 1 + bs.length := by omega
          have h2 : k - a = (k - (a + 1)) + 1 := by omega
          simp [h1, hlt, h2]
        · have h1 : ¬ (a + 1 ≤ k ∧ k < a + 1 + bs.length) := by omega
          rw [if_neg (by omega), if_neg (by simp [hk]), if_neg (by omega)]
    · simp [hg]

/-- After `forget`, the bytes of the region hold no value and every other byte is as it was. -/
theorem get?_forget (m : Memory) (g buf : BufId) (a n k : Nat) :
    (m.forget buf a n).get? g k = if g = buf ∧ a ≤ k ∧ k < a + n then none else m.get? g k := by
  induction m with
  | nil => simp [Memory.forget, get?_nil]
  | cons c m ih =>
    obtain ⟨x, v⟩ := c
    have hf : ∀ l : Memory, l.forget buf a n = l.filter (fun c => !inRegion buf a n c.1) := fun _ => rfl
    have hr := inRegion_bufKey g buf a n k
    rcases hx : inRegion buf a n x with _ | _
    · have hc : Memory.forget ((x, v) :: m) buf a n = (x, v) :: Memory.forget m buf a n := by rw [hf, hf]; simp [hx]
      rw [hc, get?_cons, get?_cons, ih]
      by_cases hk : bufKey g k = x
      · rw [hk, hx] at hr
        rw [if_pos hk, if_neg (of_decide_eq_false hr.symm), if_pos hk]
      · simp only [if_neg hk]
    · have hc : Memory.forget ((x, v) :: m) buf a n = Memory.forget m buf a n := by rw [hf, hf]; simp [hx]
      rw [hc, get?_cons, ih]
      by_cases hk : bufKey g k = x
      · rw [hk, hx] at hr
        simp only [if_pos (of_decide_eq_true hr.symm)]
      · simp only [if_neg hk]

/-- `BufRead` reads as many bytes as it is asked for. -/
theorem readRun_length (m : Memory) (buf : BufId) (n a d : Nat) : (m.readRun buf n a d).1.length = n := by
  induction n generalizing a d with
  | zero => rfl
  | succ n ih => simp only [Memory.readRun]; split <;> simp [ih]

/-- Where every byte has a value, `BufRead` reads the values and draws nothing. -/
theorem readRun_known {m : Memory} {buf : BufId} {n a : Nat} {bs : List Byte} (h : m.known? buf n a = some bs) (d : Nat) :
    m.readRun buf n a d = (bs, d) := by
  induction n generalizing a bs with
  | zero => simp_all [Memory.known?, Memory.readRun]
  | succ n ih =>
    simp only [Memory.known?] at h
    split at h
    · rename_i b bs' hb hbs
      simp only [Option.some.injEq] at h
      subst h
      simp [Memory.readRun, hb, ih hbs]
    · cases h

/-- A byte just written has a value, so the bytes of a run do. -/
theorem known?_writeRun (m : Memory) (buf : BufId) (a : Nat) (bs : List Byte) :
    (m.writeRun buf a bs).known? buf bs.length a = some bs := by
  have key : ∀ (n i : Nat), i + n = bs.length → (m.writeRun buf a bs).known? buf n (a + i) = some (bs.drop i) := by
    intro n
    induction n with
    | zero => intro i hi; simp [Memory.known?, List.drop_eq_nil_of_le (by omega : bs.length ≤ i)]
    | succ n ih =>
      intro i hi
      have hlt : i < bs.length := by omega
      have hr := ih (i + 1) (by omega)
      have hg : (m.writeRun buf a bs).get? buf (a + i) = some bs[i] := by
        rw [get?_writeRun]
        simp [hlt]
      rw [← Nat.add_assoc] at hr
      simp only [Memory.known?, hg, hr]
      rw [List.drop_eq_getElem_cons hlt]
  simpa using key bs.length 0 (by simp)

end Sys2Proof.Machine
end

