-- ==== Sys2Proof/Laws/State.lean ====
section
/-! SUPPORT. For each named update of the state, what it leaves in each field: all true by `rfl`, all `@[simp]`. -/

namespace Sys2Proof.Machine

variable (s : State)

@[simp] theorem drawn_cfg (n : Nat) : (s.drawn n).cfg = s.cfg := rfl
@[simp] theorem drawn_crcOff (n : Nat) : (s.drawn n).crcOff = s.crcOff := rfl
@[simp] theorem drawn_lock (n : Nat) : (s.drawn n).lock = s.lock := rfl
@[simp] theorem drawn_seqs (n : Nat) : (s.drawn n).seqs = s.seqs := rfl
@[simp] theorem drawn_h (n : Nat) : (s.drawn n).h = s.h := rfl
@[simp] theorem drawn_crc (n : Nat) : (s.drawn n).crc = s.crc := rfl
@[simp] theorem drawn_cb (n : Nat) : (s.drawn n).cb = s.cb := rfl
@[simp] theorem drawn_cbLen (n : Nat) : (s.drawn n).cbLen = s.cbLen := rfl
@[simp] theorem drawn_rsp (n : Nat) : (s.drawn n).rsp = s.rsp := rfl
@[simp] theorem drawn_cmd (n : Nat) : (s.drawn n).cmd = s.cmd := rfl
@[simp] theorem drawn_clk (n : Nat) : (s.drawn n).clk = s.clk := rfl
@[simp] theorem drawn_rk (n : Nat) : (s.drawn n).rk = s.rk := rfl
@[simp] theorem drawn_att (n : Nat) : (s.drawn n).att = s.att := rfl
@[simp] theorem drawn_ix (n : Nat) : (s.drawn n).ix = s.ix := rfl
@[simp] theorem drawn_rem (n : Nat) : (s.drawn n).rem = s.rem := rfl
@[simp] theorem drawn_nb (n : Nat) : (s.drawn n).nb = s.nb := rfl
@[simp] theorem drawn_order (n : Nat) : (s.drawn n).order = s.order := rfl
@[simp] theorem drawn_addr (n : Nat) : (s.drawn n).addr = s.addr := rfl
@[simp] theorem drawn_off (n : Nat) : (s.drawn n).off = s.off := rfl
@[simp] theorem drawn_sz (n : Nat) : (s.drawn n).sz = s.sz := rfl
@[simp] theorem drawn_acc (n : Nat) : (s.drawn n).acc = s.acc := rfl
@[simp] theorem drawn_tmp (n : Nat) : (s.drawn n).tmp = s.tmp := rfl
@[simp] theorem drawn_mem (n : Nat) : (s.drawn n).mem = s.mem := rfl
@[simp] theorem drawn_bufLens (n : Nat) : (s.drawn n).bufLens = s.bufLens := rfl
@[simp] theorem drawn_port (n : Nat) : (s.drawn n).port = s.port := rfl
@[simp] theorem drawn_issuer (n : Nat) : (s.drawn n).issuer = s.issuer := rfl
@[simp] theorem drawn_sched (n : Nat) : (s.drawn n).sched = s.sched := rfl
@[simp] theorem drawn_oracle (n : Nat) : (s.drawn n).oracle = s.oracle := rfl
@[simp] theorem drawn_draws (n : Nat) : (s.drawn n).draws = s.draws + n := rfl
@[simp] theorem drawn_results (n : Nat) : (s.drawn n).results = s.results := rfl

@[simp] theorem log_cfg (e : Event) : (s.log e).cfg = s.cfg := rfl
@[simp] theorem log_crcOff (e : Event) : (s.log e).crcOff = s.crcOff := rfl
@[simp] theorem log_lock (e : Event) : (s.log e).lock = s.lock := rfl
@[simp] theorem log_seqs (e : Event) : (s.log e).seqs = s.seqs := rfl
@[simp] theorem log_h (e : Event) : (s.log e).h = s.h ++ [e] := rfl
@[simp] theorem log_crc (e : Event) : (s.log e).crc = s.crc := rfl
@[simp] theorem log_cb (e : Event) : (s.log e).cb = s.cb := rfl
@[simp] theorem log_cbLen (e : Event) : (s.log e).cbLen = s.cbLen := rfl
@[simp] theorem log_rsp (e : Event) : (s.log e).rsp = s.rsp := rfl
@[simp] theorem log_cmd (e : Event) : (s.log e).cmd = s.cmd := rfl
@[simp] theorem log_clk (e : Event) : (s.log e).clk = s.clk := rfl
@[simp] theorem log_rk (e : Event) : (s.log e).rk = s.rk := rfl
@[simp] theorem log_att (e : Event) : (s.log e).att = s.att := rfl
@[simp] theorem log_ix (e : Event) : (s.log e).ix = s.ix := rfl
@[simp] theorem log_rem (e : Event) : (s.log e).rem = s.rem := rfl
@[simp] theorem log_nb (e : Event) : (s.log e).nb = s.nb := rfl
@[simp] theorem log_order (e : Event) : (s.log e).order = s.order := rfl
@[simp] theorem log_addr (e : Event) : (s.log e).addr = s.addr := rfl
@[simp] theorem log_off (e : Event) : (s.log e).off = s.off := rfl
@[simp] theorem log_sz (e : Event) : (s.log e).sz = s.sz := rfl
@[simp] theorem log_acc (e : Event) : (s.log e).acc = s.acc := rfl
@[simp] theorem log_tmp (e : Event) : (s.log e).tmp = s.tmp := rfl
@[simp] theorem log_mem (e : Event) : (s.log e).mem = s.mem := rfl
@[simp] theorem log_bufLens (e : Event) : (s.log e).bufLens = s.bufLens := rfl
@[simp] theorem log_port (e : Event) : (s.log e).port = s.port := rfl
@[simp] theorem log_issuer (e : Event) : (s.log e).issuer = s.issuer := rfl
@[simp] theorem log_sched (e : Event) : (s.log e).sched = s.sched := rfl
@[simp] theorem log_oracle (e : Event) : (s.log e).oracle = s.oracle := rfl
@[simp] theorem log_draws (e : Event) : (s.log e).draws = s.draws := rfl
@[simp] theorem log_results (e : Event) : (s.log e).results = s.results := rfl

@[simp] theorem report_cfg (r : Nat) (res : Result) : (s.report r res).cfg = s.cfg := rfl
@[simp] theorem report_crcOff (r : Nat) (res : Result) : (s.report r res).crcOff = s.crcOff := rfl
@[simp] theorem report_lock (r : Nat) (res : Result) : (s.report r res).lock = s.lock := rfl
@[simp] theorem report_seqs (r : Nat) (res : Result) : (s.report r res).seqs = s.seqs := rfl
@[simp] theorem report_h (r : Nat) (res : Result) : (s.report r res).h = s.h := rfl
@[simp] theorem report_crc (r : Nat) (res : Result) : (s.report r res).crc = s.crc := rfl
@[simp] theorem report_cb (r : Nat) (res : Result) : (s.report r res).cb = s.cb := rfl
@[simp] theorem report_cbLen (r : Nat) (res : Result) : (s.report r res).cbLen = s.cbLen := rfl
@[simp] theorem report_rsp (r : Nat) (res : Result) : (s.report r res).rsp = s.rsp := rfl
@[simp] theorem report_cmd (r : Nat) (res : Result) : (s.report r res).cmd = s.cmd := rfl
@[simp] theorem report_clk (r : Nat) (res : Result) : (s.report r res).clk = s.clk := rfl
@[simp] theorem report_rk (r : Nat) (res : Result) : (s.report r res).rk = s.rk := rfl
@[simp] theorem report_att (r : Nat) (res : Result) : (s.report r res).att = s.att := rfl
@[simp] theorem report_ix (r : Nat) (res : Result) : (s.report r res).ix = s.ix := rfl
@[simp] theorem report_rem (r : Nat) (res : Result) : (s.report r res).rem = s.rem := rfl
@[simp] theorem report_nb (r : Nat) (res : Result) : (s.report r res).nb = s.nb := rfl
@[simp] theorem report_order (r : Nat) (res : Result) : (s.report r res).order = s.order := rfl
@[simp] theorem report_addr (r : Nat) (res : Result) : (s.report r res).addr = s.addr := rfl
@[simp] theorem report_off (r : Nat) (res : Result) : (s.report r res).off = s.off := rfl
@[simp] theorem report_sz (r : Nat) (res : Result) : (s.report r res).sz = s.sz := rfl
@[simp] theorem report_acc (r : Nat) (res : Result) : (s.report r res).acc = s.acc := rfl
@[simp] theorem report_tmp (r : Nat) (res : Result) : (s.report r res).tmp = s.tmp := rfl
@[simp] theorem report_mem (r : Nat) (res : Result) : (s.report r res).mem = s.mem := rfl
@[simp] theorem report_bufLens (r : Nat) (res : Result) : (s.report r res).bufLens = s.bufLens := rfl
@[simp] theorem report_port (r : Nat) (res : Result) : (s.report r res).port = s.port := rfl
@[simp] theorem report_issuer (r : Nat) (res : Result) : (s.report r res).issuer = s.issuer := rfl
@[simp] theorem report_sched (r : Nat) (res : Result) : (s.report r res).sched = s.sched := rfl
@[simp] theorem report_oracle (r : Nat) (res : Result) : (s.report r res).oracle = s.oracle := rfl
@[simp] theorem report_draws (r : Nat) (res : Result) : (s.report r res).draws = s.draws := rfl
@[simp] theorem report_results (r : Nat) (res : Result) : (s.report r res).results = s.results ++ [(r, res)] := rfl

@[simp] theorem setSeq_cfg (r : Nat) (p : SeqPos) : (s.setSeq r p).cfg = s.cfg := rfl
@[simp] theorem setSeq_crcOff (r : Nat) (p : SeqPos) : (s.setSeq r p).crcOff = s.crcOff := rfl
@[simp] theorem setSeq_lock (r : Nat) (p : SeqPos) : (s.setSeq r p).lock = s.lock := rfl
@[simp] theorem setSeq_seqs (r : Nat) (p : SeqPos) : (s.setSeq r p).seqs = seqInsert s.seqs r p := rfl
@[simp] theorem setSeq_h (r : Nat) (p : SeqPos) : (s.setSeq r p).h = s.h := rfl
@[simp] theorem setSeq_crc (r : Nat) (p : SeqPos) : (s.setSeq r p).crc = s.crc := rfl
@[simp] theorem setSeq_cb (r : Nat) (p : SeqPos) : (s.setSeq r p).cb = s.cb := rfl
@[simp] theorem setSeq_cbLen (r : Nat) (p : SeqPos) : (s.setSeq r p).cbLen = s.cbLen := rfl
@[simp] theorem setSeq_rsp (r : Nat) (p : SeqPos) : (s.setSeq r p).rsp = s.rsp := rfl
@[simp] theorem setSeq_cmd (r : Nat) (p : SeqPos) : (s.setSeq r p).cmd = s.cmd := rfl
@[simp] theorem setSeq_clk (r : Nat) (p : SeqPos) : (s.setSeq r p).clk = s.clk := rfl
@[simp] theorem setSeq_rk (r : Nat) (p : SeqPos) : (s.setSeq r p).rk = s.rk := rfl
@[simp] theorem setSeq_att (r : Nat) (p : SeqPos) : (s.setSeq r p).att = s.att := rfl
@[simp] theorem setSeq_ix (r : Nat) (p : SeqPos) : (s.setSeq r p).ix = s.ix := rfl
@[simp] theorem setSeq_rem (r : Nat) (p : SeqPos) : (s.setSeq r p).rem = s.rem := rfl
@[simp] theorem setSeq_nb (r : Nat) (p : SeqPos) : (s.setSeq r p).nb = s.nb := rfl
@[simp] theorem setSeq_order (r : Nat) (p : SeqPos) : (s.setSeq r p).order = s.order := rfl
@[simp] theorem setSeq_addr (r : Nat) (p : SeqPos) : (s.setSeq r p).addr = s.addr := rfl
@[simp] theorem setSeq_off (r : Nat) (p : SeqPos) : (s.setSeq r p).off = s.off := rfl
@[simp] theorem setSeq_sz (r : Nat) (p : SeqPos) : (s.setSeq r p).sz = s.sz := rfl
@[simp] theorem setSeq_acc (r : Nat) (p : SeqPos) : (s.setSeq r p).acc = s.acc := rfl
@[simp] theorem setSeq_tmp (r : Nat) (p : SeqPos) : (s.setSeq r p).tmp = s.tmp := rfl
@[simp] theorem setSeq_mem (r : Nat) (p : SeqPos) : (s.setSeq r p).mem = s.mem := rfl
@[simp] theorem setSeq_bufLens (r : Nat) (p : SeqPos) : (s.setSeq r p).bufLens = s.bufLens := rfl
@[simp] theorem setSeq_port (r : Nat) (p : SeqPos) : (s.setSeq r p).port = s.port := rfl
@[simp] theorem setSeq_issuer (r : Nat) (p : SeqPos) : (s.setSeq r p).issuer = s.issuer := rfl
@[simp] theorem setSeq_sched (r : Nat) (p : SeqPos) : (s.setSeq r p).sched = s.sched := rfl
@[simp] theorem setSeq_oracle (r : Nat) (p : SeqPos) : (s.setSeq r p).oracle = s.oracle := rfl
@[simp] theorem setSeq_draws (r : Nat) (p : SeqPos) : (s.setSeq r p).draws = s.draws := rfl
@[simp] theorem setSeq_results (r : Nat) (p : SeqPos) : (s.setSeq r p).results = s.results := rfl

@[simp] theorem clearSeq_cfg (r : Nat) : (s.clearSeq r).cfg = s.cfg := rfl
@[simp] theorem clearSeq_crcOff (r : Nat) : (s.clearSeq r).crcOff = s.crcOff := rfl
@[simp] theorem clearSeq_lock (r : Nat) : (s.clearSeq r).lock = s.lock := rfl
@[simp] theorem clearSeq_seqs (r : Nat) : (s.clearSeq r).seqs = s.seqs.filter (fun x => decide (x.1 ≠ r)) := rfl
@[simp] theorem clearSeq_h (r : Nat) : (s.clearSeq r).h = s.h := rfl
@[simp] theorem clearSeq_crc (r : Nat) : (s.clearSeq r).crc = s.crc := rfl
@[simp] theorem clearSeq_cb (r : Nat) : (s.clearSeq r).cb = s.cb := rfl
@[simp] theorem clearSeq_cbLen (r : Nat) : (s.clearSeq r).cbLen = s.cbLen := rfl
@[simp] theorem clearSeq_rsp (r : Nat) : (s.clearSeq r).rsp = s.rsp := rfl
@[simp] theorem clearSeq_cmd (r : Nat) : (s.clearSeq r).cmd = s.cmd := rfl
@[simp] theorem clearSeq_clk (r : Nat) : (s.clearSeq r).clk = s.clk := rfl
@[simp] theorem clearSeq_rk (r : Nat) : (s.clearSeq r).rk = s.rk := rfl
@[simp] theorem clearSeq_att (r : Nat) : (s.clearSeq r).att = s.att := rfl
@[simp] theorem clearSeq_ix (r : Nat) : (s.clearSeq r).ix = s.ix := rfl
@[simp] theorem clearSeq_rem (r : Nat) : (s.clearSeq r).rem = s.rem := rfl
@[simp] theorem clearSeq_nb (r : Nat) : (s.clearSeq r).nb = s.nb := rfl
@[simp] theorem clearSeq_order (r : Nat) : (s.clearSeq r).order = s.order := rfl
@[simp] theorem clearSeq_addr (r : Nat) : (s.clearSeq r).addr = s.addr := rfl
@[simp] theorem clearSeq_off (r : Nat) : (s.clearSeq r).off = s.off := rfl
@[simp] theorem clearSeq_sz (r : Nat) : (s.clearSeq r).sz = s.sz := rfl
@[simp] theorem clearSeq_acc (r : Nat) : (s.clearSeq r).acc = s.acc := rfl
@[simp] theorem clearSeq_tmp (r : Nat) : (s.clearSeq r).tmp = s.tmp := rfl
@[simp] theorem clearSeq_mem (r : Nat) : (s.clearSeq r).mem = s.mem := rfl
@[simp] theorem clearSeq_bufLens (r : Nat) : (s.clearSeq r).bufLens = s.bufLens := rfl
@[simp] theorem clearSeq_port (r : Nat) : (s.clearSeq r).port = s.port := rfl
@[simp] theorem clearSeq_issuer (r : Nat) : (s.clearSeq r).issuer = s.issuer := rfl
@[simp] theorem clearSeq_sched (r : Nat) : (s.clearSeq r).sched = s.sched := rfl
@[simp] theorem clearSeq_oracle (r : Nat) : (s.clearSeq r).oracle = s.oracle := rfl
@[simp] theorem clearSeq_draws (r : Nat) : (s.clearSeq r).draws = s.draws := rfl
@[simp] theorem clearSeq_results (r : Nat) : (s.clearSeq r).results = s.results := rfl

@[simp] theorem resume_cfg (q : Nat) : (s.resume q).cfg = s.cfg := rfl
@[simp] theorem resume_crcOff (q : Nat) : (s.resume q).crcOff = s.crcOff := rfl
@[simp] theorem resume_lock (q : Nat) : (s.resume q).lock = s.lock := rfl
@[simp] theorem resume_seqs (q : Nat) : (s.resume q).seqs = s.seqs.filter (fun x => decide (x.1 ≠ q)) := rfl
@[simp] theorem resume_h (q : Nat) : (s.resume q).h = s.h := rfl
@[simp] theorem resume_crc (q : Nat) : (s.resume q).crc = s.crc := rfl
@[simp] theorem resume_cb (q : Nat) : (s.resume q).cb = s.cb := rfl
@[simp] theorem resume_cbLen (q : Nat) : (s.resume q).cbLen = s.cbLen := rfl
@[simp] theorem resume_rsp (q : Nat) : (s.resume q).rsp = s.rsp := rfl
@[simp] theorem resume_cmd (q : Nat) : (s.resume q).cmd = s.cmd := rfl
@[simp] theorem resume_clk (q : Nat) : (s.resume q).clk = s.clk := rfl
@[simp] theorem resume_rk (q : Nat) : (s.resume q).rk = s.rk := rfl
@[simp] theorem resume_att (q : Nat) : (s.resume q).att = s.att := rfl
@[simp] theorem resume_ix (q : Nat) : (s.resume q).ix = s.ix := rfl
@[simp] theorem resume_rem (q : Nat) : (s.resume q).rem = s.rem := rfl
@[simp] theorem resume_nb (q : Nat) : (s.resume q).nb = s.nb := rfl
@[simp] theorem resume_order (q : Nat) : (s.resume q).order = s.order := rfl
@[simp] theorem resume_addr (q : Nat) : (s.resume q).addr = s.addr := rfl
@[simp] theorem resume_off (q : Nat) : (s.resume q).off = s.off := rfl
@[simp] theorem resume_sz (q : Nat) : (s.resume q).sz = s.sz := rfl
@[simp] theorem resume_acc (q : Nat) : (s.resume q).acc = s.acc := rfl
@[simp] theorem resume_tmp (q : Nat) : (s.resume q).tmp = s.tmp := rfl
@[simp] theorem resume_mem (q : Nat) : (s.resume q).mem = s.mem := rfl
@[simp] theorem resume_bufLens (q : Nat) : (s.resume q).bufLens = s.bufLens := rfl
@[simp] theorem resume_port (q : Nat) : (s.resume q).port = s.port := rfl
@[simp] theorem resume_issuer (q : Nat) : (s.resume q).issuer = q := rfl
@[simp] theorem resume_sched (q : Nat) : (s.resume q).sched = s.sched := rfl
@[simp] theorem resume_oracle (q : Nat) : (s.resume q).oracle = s.oracle := rfl
@[simp] theorem resume_draws (q : Nat) : (s.resume q).draws = s.draws := rfl
@[simp] theorem resume_results (q : Nat) : (s.resume q).results = s.results := rfl

@[simp] theorem takeLock_cfg (r : Nat) : (s.takeLock r).cfg = s.cfg := rfl
@[simp] theorem takeLock_crcOff (r : Nat) : (s.takeLock r).crcOff = s.crcOff := rfl
@[simp] theorem takeLock_lock (r : Nat) : (s.takeLock r).lock = .held r := rfl
@[simp] theorem takeLock_seqs (r : Nat) : (s.takeLock r).seqs = s.seqs := rfl
@[simp] theorem takeLock_h (r : Nat) : (s.takeLock r).h = s.h ++ [.acq r] := rfl
@[simp] theorem takeLock_crc (r : Nat) : (s.takeLock r).crc = s.crc := rfl
@[simp] theorem takeLock_cb (r : Nat) : (s.takeLock r).cb = s.cb := rfl
@[simp] theorem takeLock_cbLen (r : Nat) : (s.takeLock r).cbLen = s.cbLen := rfl
@[simp] theorem takeLock_rsp (r : Nat) : (s.takeLock r).rsp = s.rsp := rfl
@[simp] theorem takeLock_cmd (r : Nat) : (s.takeLock r).cmd = s.cmd := rfl
@[simp] theorem takeLock_clk (r : Nat) : (s.takeLock r).clk = s.clk := rfl
@[simp] theorem takeLock_rk (r : Nat) : (s.takeLock r).rk = s.rk := rfl
@[simp] theorem takeLock_att (r : Nat) : (s.takeLock r).att = s.att := rfl
@[simp] theorem takeLock_ix (r : Nat) : (s.takeLock r).ix = s.ix := rfl
@[simp] theorem takeLock_rem (r : Nat) : (s.takeLock r).rem = s.rem := rfl
@[simp] theorem takeLock_nb (r : Nat) : (s.takeLock r).nb = s.nb := rfl
@[simp] theorem takeLock_order (r : Nat) : (s.takeLock r).order = s.order := rfl
@[simp] theorem takeLock_addr (r : Nat) : (s.takeLock r).addr = s.addr := rfl
@[simp] theorem takeLock_off (r : Nat) : (s.takeLock r).off = s.off := rfl
@[simp] theorem takeLock_sz (r : Nat) : (s.takeLock r).sz = s.sz := rfl
@[simp] theorem takeLock_acc (r : Nat) : (s.takeLock r).acc = s.acc := rfl
@[simp] theorem takeLock_tmp (r : Nat) : (s.takeLock r).tmp = s.tmp := rfl
@[simp] theorem takeLock_mem (r : Nat) : (s.takeLock r).mem = s.mem := rfl
@[simp] theorem takeLock_bufLens (r : Nat) : (s.takeLock r).bufLens = s.bufLens := rfl
@[simp] theorem takeLock_port (r : Nat) : (s.takeLock r).port = s.port := rfl
@[simp] theorem takeLock_issuer (r : Nat) : (s.takeLock r).issuer = s.issuer := rfl
@[simp] theorem takeLock_sched (r : Nat) : (s.takeLock r).sched = s.sched := rfl
@[simp] theorem takeLock_oracle (r : Nat) : (s.takeLock r).oracle = s.oracle := rfl
@[simp] theorem takeLock_draws (r : Nat) : (s.takeLock r).draws = s.draws := rfl
@[simp] theorem takeLock_results (r : Nat) : (s.takeLock r).results = s.results := rfl

@[simp] theorem dropLock_cfg (r : Nat) : (s.dropLock r).cfg = s.cfg := rfl
@[simp] theorem dropLock_crcOff (r : Nat) : (s.dropLock r).crcOff = s.crcOff := rfl
@[simp] theorem dropLock_lock (r : Nat) : (s.dropLock r).lock = .free := rfl
@[simp] theorem dropLock_seqs (r : Nat) : (s.dropLock r).seqs = s.seqs := rfl
@[simp] theorem dropLock_h (r : Nat) : (s.dropLock r).h = s.h ++ [.rel r] := rfl
@[simp] theorem dropLock_crc (r : Nat) : (s.dropLock r).crc = s.crc := rfl
@[simp] theorem dropLock_cb (r : Nat) : (s.dropLock r).cb = s.cb := rfl
@[simp] theorem dropLock_cbLen (r : Nat) : (s.dropLock r).cbLen = s.cbLen := rfl
@[simp] theorem dropLock_rsp (r : Nat) : (s.dropLock r).rsp = s.rsp := rfl
@[simp] theorem dropLock_cmd (r : Nat) : (s.dropLock r).cmd = s.cmd := rfl
@[simp] theorem dropLock_clk (r : Nat) : (s.dropLock r).clk = s.clk := rfl
@[simp] theorem dropLock_rk (r : Nat) : (s.dropLock r).rk = s.rk := rfl
@[simp] theorem dropLock_att (r : Nat) : (s.dropLock r).att = s.att := rfl
@[simp] theorem dropLock_ix (r : Nat) : (s.dropLock r).ix = s.ix := rfl
@[simp] theorem dropLock_rem (r : Nat) : (s.dropLock r).rem = s.rem := rfl
@[simp] theorem dropLock_nb (r : Nat) : (s.dropLock r).nb = s.nb := rfl
@[simp] theorem dropLock_order (r : Nat) : (s.dropLock r).order = s.order := rfl
@[simp] theorem dropLock_addr (r : Nat) : (s.dropLock r).addr = s.addr := rfl
@[simp] theorem dropLock_off (r : Nat) : (s.dropLock r).off = s.off := rfl
@[simp] theorem dropLock_sz (r : Nat) : (s.dropLock r).sz = s.sz := rfl
@[simp] theorem dropLock_acc (r : Nat) : (s.dropLock r).acc = s.acc := rfl
@[simp] theorem dropLock_tmp (r : Nat) : (s.dropLock r).tmp = s.tmp := rfl
@[simp] theorem dropLock_mem (r : Nat) : (s.dropLock r).mem = s.mem := rfl
@[simp] theorem dropLock_bufLens (r : Nat) : (s.dropLock r).bufLens = s.bufLens := rfl
@[simp] theorem dropLock_port (r : Nat) : (s.dropLock r).port = s.port := rfl
@[simp] theorem dropLock_issuer (r : Nat) : (s.dropLock r).issuer = s.issuer := rfl
@[simp] theorem dropLock_sched (r : Nat) : (s.dropLock r).sched = s.sched := rfl
@[simp] theorem dropLock_oracle (r : Nat) : (s.dropLock r).oracle = s.oracle := rfl
@[simp] theorem dropLock_draws (r : Nat) : (s.dropLock r).draws = s.draws := rfl
@[simp] theorem dropLock_results (r : Nat) : (s.dropLock r).results = s.results := rfl

@[simp] theorem setPhase_cfg (i m : Nat) : (s.setPhase i m).cfg = s.cfg := rfl
@[simp] theorem setPhase_crcOff (i m : Nat) : (s.setPhase i m).crcOff = s.crcOff := rfl
@[simp] theorem setPhase_lock (i m : Nat) : (s.setPhase i m).lock = s.lock := rfl
@[simp] theorem setPhase_seqs (i m : Nat) : (s.setPhase i m).seqs = s.seqs := rfl
@[simp] theorem setPhase_h (i m : Nat) : (s.setPhase i m).h = s.h := rfl
@[simp] theorem setPhase_crc (i m : Nat) : (s.setPhase i m).crc = s.crc := rfl
@[simp] theorem setPhase_cb (i m : Nat) : (s.setPhase i m).cb = s.cb := rfl
@[simp] theorem setPhase_cbLen (i m : Nat) : (s.setPhase i m).cbLen = s.cbLen := rfl
@[simp] theorem setPhase_rsp (i m : Nat) : (s.setPhase i m).rsp = s.rsp := rfl
@[simp] theorem setPhase_cmd (i m : Nat) : (s.setPhase i m).cmd = s.cmd := rfl
@[simp] theorem setPhase_clk (i m : Nat) : (s.setPhase i m).clk = s.clk := rfl
@[simp] theorem setPhase_rk (i m : Nat) : (s.setPhase i m).rk = s.rk := rfl
@[simp] theorem setPhase_att (i m : Nat) : (s.setPhase i m).att = s.att := rfl
@[simp] theorem setPhase_ix (i m : Nat) : (s.setPhase i m).ix = BitVec.ofNat 16 i := rfl
@[simp] theorem setPhase_rem (i m : Nat) : (s.setPhase i m).rem = BitVec.ofNat 16 m := rfl
@[simp] theorem setPhase_nb (i m : Nat) : (s.setPhase i m).nb = s.nb := rfl
@[simp] theorem setPhase_order (i m : Nat) : (s.setPhase i m).order = s.order := rfl
@[simp] theorem setPhase_addr (i m : Nat) : (s.setPhase i m).addr = s.addr := rfl
@[simp] theorem setPhase_off (i m : Nat) : (s.setPhase i m).off = s.off := rfl
@[simp] theorem setPhase_sz (i m : Nat) : (s.setPhase i m).sz = s.sz := rfl
@[simp] theorem setPhase_acc (i m : Nat) : (s.setPhase i m).acc = s.acc := rfl
@[simp] theorem setPhase_tmp (i m : Nat) : (s.setPhase i m).tmp = s.tmp := rfl
@[simp] theorem setPhase_mem (i m : Nat) : (s.setPhase i m).mem = s.mem := rfl
@[simp] theorem setPhase_bufLens (i m : Nat) : (s.setPhase i m).bufLens = s.bufLens := rfl
@[simp] theorem setPhase_port (i m : Nat) : (s.setPhase i m).port = s.port := rfl
@[simp] theorem setPhase_issuer (i m : Nat) : (s.setPhase i m).issuer = s.issuer := rfl
@[simp] theorem setPhase_sched (i m : Nat) : (s.setPhase i m).sched = s.sched := rfl
@[simp] theorem setPhase_oracle (i m : Nat) : (s.setPhase i m).oracle = s.oracle := rfl
@[simp] theorem setPhase_draws (i m : Nat) : (s.setPhase i m).draws = s.draws := rfl
@[simp] theorem setPhase_results (i m : Nat) : (s.setPhase i m).results = s.results := rfl

@[simp] theorem loadBlock_cfg (b : BlockOp) : (s.loadBlock b).cfg = s.cfg := rfl
@[simp] theorem loadBlock_crcOff (b : BlockOp) : (s.loadBlock b).crcOff = s.crcOff := rfl
@[simp] theorem loadBlock_lock (b : BlockOp) : (s.loadBlock b).lock = s.lock := rfl
@[simp] theorem loadBlock_seqs (b : BlockOp) : (s.loadBlock b).seqs = s.seqs := rfl
@[simp] theorem loadBlock_h (b : BlockOp) : (s.loadBlock b).h = s.h := rfl
@[simp] theorem loadBlock_crc (b : BlockOp) : (s.loadBlock b).crc = s.crc := rfl
@[simp] theorem loadBlock_cb (b : BlockOp) : (s.loadBlock b).cb = s.cb := rfl
@[simp] theorem loadBlock_cbLen (b : BlockOp) : (s.loadBlock b).cbLen = s.cbLen := rfl
@[simp] theorem loadBlock_rsp (b : BlockOp) : (s.loadBlock b).rsp = s.rsp := rfl
@[simp] theorem loadBlock_cmd (b : BlockOp) : (s.loadBlock b).cmd = s.cmd := rfl
@[simp] theorem loadBlock_clk (b : BlockOp) : (s.loadBlock b).clk = s.clk := rfl
@[simp] theorem loadBlock_rk (b : BlockOp) : (s.loadBlock b).rk = s.rk := rfl
@[simp] theorem loadBlock_att (b : BlockOp) : (s.loadBlock b).att = s.att := rfl
@[simp] theorem loadBlock_ix (b : BlockOp) : (s.loadBlock b).ix = s.ix := rfl
@[simp] theorem loadBlock_rem (b : BlockOp) : (s.loadBlock b).rem = s.rem := rfl
@[simp] theorem loadBlock_nb (b : BlockOp) : (s.loadBlock b).nb = s.nb := rfl
@[simp] theorem loadBlock_order (b : BlockOp) : (s.loadBlock b).order = s.order := rfl
@[simp] theorem loadBlock_addr (b : BlockOp) : (s.loadBlock b).addr = b.addr s.cfg := rfl
@[simp] theorem loadBlock_off (b : BlockOp) : (s.loadBlock b).off = b.off s.cfg := rfl
@[simp] theorem loadBlock_sz (b : BlockOp) : (s.loadBlock b).sz = b.sz s.cfg := rfl
@[simp] theorem loadBlock_acc (b : BlockOp) : (s.loadBlock b).acc = 0 := rfl
@[simp] theorem loadBlock_tmp (b : BlockOp) : (s.loadBlock b).tmp = s.tmp := rfl
@[simp] theorem loadBlock_mem (b : BlockOp) : (s.loadBlock b).mem = s.mem := rfl
@[simp] theorem loadBlock_bufLens (b : BlockOp) : (s.loadBlock b).bufLens = s.bufLens := rfl
@[simp] theorem loadBlock_port (b : BlockOp) : (s.loadBlock b).port = s.port := rfl
@[simp] theorem loadBlock_issuer (b : BlockOp) : (s.loadBlock b).issuer = s.issuer := rfl
@[simp] theorem loadBlock_sched (b : BlockOp) : (s.loadBlock b).sched = s.sched := rfl
@[simp] theorem loadBlock_oracle (b : BlockOp) : (s.loadBlock b).oracle = s.oracle := rfl
@[simp] theorem loadBlock_draws (b : BlockOp) : (s.loadBlock b).draws = s.draws := rfl
@[simp] theorem loadBlock_results (b : BlockOp) : (s.loadBlock b).results = s.results := rfl

@[simp] theorem loadFrame_cfg (fr : List Byte) : (s.loadFrame fr).cfg = s.cfg := rfl
@[simp] theorem loadFrame_crcOff (fr : List Byte) : (s.loadFrame fr).crcOff = s.crcOff := rfl
@[simp] theorem loadFrame_lock (fr : List Byte) : (s.loadFrame fr).lock = s.lock := rfl
@[simp] theorem loadFrame_seqs (fr : List Byte) : (s.loadFrame fr).seqs = s.seqs := rfl
@[simp] theorem loadFrame_h (fr : List Byte) : (s.loadFrame fr).h = s.h := rfl
@[simp] theorem loadFrame_crc (fr : List Byte) : (s.loadFrame fr).crc = s.crc := rfl
@[simp] theorem loadFrame_cb (fr : List Byte) : (s.loadFrame fr).cb = fr ++ freeBytes (9 - fr.length) s.draws := rfl
@[simp] theorem loadFrame_cbLen (fr : List Byte) : (s.loadFrame fr).cbLen = BitVec.ofNat 4 fr.length := rfl
@[simp] theorem loadFrame_rsp (fr : List Byte) : (s.loadFrame fr).rsp = s.rsp := rfl
@[simp] theorem loadFrame_cmd (fr : List Byte) : (s.loadFrame fr).cmd = s.cmd := rfl
@[simp] theorem loadFrame_clk (fr : List Byte) : (s.loadFrame fr).clk = s.clk := rfl
@[simp] theorem loadFrame_rk (fr : List Byte) : (s.loadFrame fr).rk = s.rk := rfl
@[simp] theorem loadFrame_att (fr : List Byte) : (s.loadFrame fr).att = s.att := rfl
@[simp] theorem loadFrame_ix (fr : List Byte) : (s.loadFrame fr).ix = s.ix := rfl
@[simp] theorem loadFrame_rem (fr : List Byte) : (s.loadFrame fr).rem = s.rem := rfl
@[simp] theorem loadFrame_nb (fr : List Byte) : (s.loadFrame fr).nb = s.nb := rfl
@[simp] theorem loadFrame_order (fr : List Byte) : (s.loadFrame fr).order = s.order := rfl
@[simp] theorem loadFrame_addr (fr : List Byte) : (s.loadFrame fr).addr = s.addr := rfl
@[simp] theorem loadFrame_off (fr : List Byte) : (s.loadFrame fr).off = s.off := rfl
@[simp] theorem loadFrame_sz (fr : List Byte) : (s.loadFrame fr).sz = s.sz := rfl
@[simp] theorem loadFrame_acc (fr : List Byte) : (s.loadFrame fr).acc = s.acc := rfl
@[simp] theorem loadFrame_tmp (fr : List Byte) : (s.loadFrame fr).tmp = s.tmp := rfl
@[simp] theorem loadFrame_mem (fr : List Byte) : (s.loadFrame fr).mem = s.mem := rfl
@[simp] theorem loadFrame_bufLens (fr : List Byte) : (s.loadFrame fr).bufLens = s.bufLens := rfl
@[simp] theorem loadFrame_port (fr : List Byte) : (s.loadFrame fr).port = s.port := rfl
@[simp] theorem loadFrame_issuer (fr : List Byte) : (s.loadFrame fr).issuer = s.issuer := rfl
@[simp] theorem loadFrame_sched (fr : List Byte) : (s.loadFrame fr).sched = s.sched := rfl
@[simp] theorem loadFrame_oracle (fr : List Byte) : (s.loadFrame fr).oracle = s.oracle := rfl
@[simp] theorem loadFrame_draws (fr : List Byte) : (s.loadFrame fr).draws = s.draws + (9 - fr.length) := rfl
@[simp] theorem loadFrame_results (fr : List Byte) : (s.loadFrame fr).results = s.results := rfl

@[simp] theorem bufWrite_cfg (buf : BufId) (o : Nat) (bs : List Byte) : (s.bufWrite buf o bs).cfg = s.cfg := rfl
@[simp] theorem bufWrite_crcOff (buf : BufId) (o : Nat) (bs : List Byte) : (s.bufWrite buf o bs).crcOff = s.crcOff := rfl
@[simp] theorem bufWrite_lock (buf : BufId) (o : Nat) (bs : List Byte) : (s.bufWrite buf o bs).lock = s.lock := rfl
@[simp] theorem bufWrite_seqs (buf : BufId) (o : Nat) (bs : List Byte) : (s.bufWrite buf o bs).seqs = s.seqs := rfl
@[simp] theorem bufWrite_h (buf : BufId) (o : Nat) (bs : List Byte) : (s.bufWrite buf o bs).h = s.h := rfl
@[simp] theorem bufWrite_crc (buf : BufId) (o : Nat) (bs : List Byte) : (s.bufWrite buf o bs).crc = s.crc := rfl
@[simp] theorem bufWrite_cb (buf : BufId) (o : Nat) (bs : List Byte) : (s.bufWrite buf o bs).cb = s.cb := rfl
@[simp] theorem bufWrite_cbLen (buf : BufId) (o : Nat) (bs : List Byte) : (s.bufWrite buf o bs).cbLen = s.cbLen := rfl
@[simp] theorem bufWrite_rsp (buf : BufId) (o : Nat) (bs : List Byte) : (s.bufWrite buf o bs).rsp = s.rsp := rfl
@[simp] theorem bufWrite_cmd (buf : BufId) (o : Nat) (bs : List Byte) : (s.bufWrite buf o bs).cmd = s.cmd := rfl
@[simp] theorem bufWrite_clk (buf : BufId) (o : Nat) (bs : List Byte) : (s.bufWrite buf o bs).clk = s.clk := rfl
@[simp] theorem bufWrite_rk (buf : BufId) (o : Nat) (bs : List Byte) : (s.bufWrite buf o bs).rk = s.rk := rfl
@[simp] theorem bufWrite_att (buf : BufId) (o : Nat) (bs : List Byte) : (s.bufWrite buf o bs).att = s.att := rfl
@[simp] theorem bufWrite_ix (buf : BufId) (o : Nat) (bs : List Byte) : (s.bufWrite buf o bs).ix = s.ix := rfl
@[simp] theorem bufWrite_rem (buf : BufId) (o : Nat) (bs : List Byte) : (s.bufWrite buf o bs).rem = s.rem := rfl
@[simp] theorem bufWrite_nb (buf : BufId) (o : Nat) (bs : List Byte) : (s.bufWrite buf o bs).nb = s.nb := rfl
@[simp] theorem bufWrite_order (buf : BufId) (o : Nat) (bs : List Byte) : (s.bufWrite buf o bs).order = s.order := rfl
@[simp] theorem bufWrite_addr (buf : BufId) (o : Nat) (bs : List Byte) : (s.bufWrite buf o bs).addr = s.addr := rfl
@[simp] theorem bufWrite_off (buf : BufId) (o : Nat) (bs : List Byte) : (s.bufWrite buf o bs).off = s.off := rfl
@[simp] theorem bufWrite_sz (buf : BufId) (o : Nat) (bs : List Byte) : (s.bufWrite buf o bs).sz = s.sz := rfl
@[simp] theorem bufWrite_acc (buf : BufId) (o : Nat) (bs : List Byte) : (s.bufWrite buf o bs).acc = s.acc := rfl
@[simp] theorem bufWrite_tmp (buf : BufId) (o : Nat) (bs : List Byte) : (s.bufWrite buf o bs).tmp = s.tmp := rfl
@[simp] theorem bufWrite_mem (buf : BufId) (o : Nat) (bs : List Byte) : (s.bufWrite buf o bs).mem = s.mem.writeRun buf o bs := rfl
@[simp] theorem bufWrite_bufLens (buf : BufId) (o : Nat) (bs : List Byte) : (s.bufWrite buf o bs).bufLens = s.bufLens := rfl
@[simp] theorem bufWrite_port (buf : BufId) (o : Nat) (bs : List Byte) : (s.bufWrite buf o bs).port = s.port := rfl
@[simp] theorem bufWrite_issuer (buf : BufId) (o : Nat) (bs : List Byte) : (s.bufWrite buf o bs).issuer = s.issuer := rfl
@[simp] theorem bufWrite_sched (buf : BufId) (o : Nat) (bs : List Byte) : (s.bufWrite buf o bs).sched = s.sched := rfl
@[simp] theorem bufWrite_oracle (buf : BufId) (o : Nat) (bs : List Byte) : (s.bufWrite buf o bs).oracle = s.oracle := rfl
@[simp] theorem bufWrite_draws (buf : BufId) (o : Nat) (bs : List Byte) : (s.bufWrite buf o bs).draws = s.draws := rfl
@[simp] theorem bufWrite_results (buf : BufId) (o : Nat) (bs : List Byte) : (s.bufWrite buf o bs).results = s.results := rfl

@[simp] theorem bufForget_cfg (buf : BufId) (o n : Nat) : (s.bufForget buf o n).cfg = s.cfg := rfl
@[simp] theorem bufForget_crcOff (buf : BufId) (o n : Nat) : (s.bufForget buf o n).crcOff = s.crcOff := rfl
@[simp] theorem bufForget_lock (buf : BufId) (o n : Nat) : (s.bufForget buf o n).lock = s.lock := rfl
@[simp] theorem bufForget_seqs (buf : BufId) (o n : Nat) : (s.bufForget buf o n).seqs = s.seqs := rfl
@[simp] theorem bufForget_h (buf : BufId) (o n : Nat) : (s.bufForget buf o n).h = s.h := rfl
@[simp] theorem bufForget_crc (buf : BufId) (o n : Nat) : (s.bufForget buf o n).crc = s.crc := rfl
@[simp] theorem bufForget_cb (buf : BufId) (o n : Nat) : (s.bufForget buf o n).cb = s.cb := rfl
@[simp] theorem bufForget_cbLen (buf : BufId) (o n : Nat) : (s.bufForget buf o n).cbLen = s.cbLen := rfl
@[simp] theorem bufForget_rsp (buf : BufId) (o n : Nat) : (s.bufForget buf o n).rsp = s.rsp := rfl
@[simp] theorem bufForget_cmd (buf : BufId) (o n : Nat) : (s.bufForget buf o n).cmd = s.cmd := rfl
@[simp] theorem bufForget_clk (buf : BufId) (o n : Nat) : (s.bufForget buf o n).clk = s.clk := rfl
@[simp] theorem bufForget_rk (buf : BufId) (o n : Nat) : (s.bufForget buf o n).rk = s.rk := rfl
@[simp] theorem bufForget_att (buf : BufId) (o n : Nat) : (s.bufForget buf o n).att = s.att := rfl
@[simp] theorem bufForget_ix (buf : BufId) (o n : Nat) : (s.bufForget buf o n).ix = s.ix := rfl
@[simp] theorem bufForget_rem (buf : BufId) (o n : Nat) : (s.bufForget buf o n).rem = s.rem := rfl
@[simp] theorem bufForget_nb (buf : BufId) (o n : Nat) : (s.bufForget buf o n).nb = s.nb := rfl
@[simp] theorem bufForget_order (buf : BufId) (o n : Nat) : (s.bufForget buf o n).order = s.order := rfl
@[simp] theorem bufForget_addr (buf : BufId) (o n : Nat) : (s.bufForget buf o n).addr = s.addr := rfl
@[simp] theorem bufForget_off (buf : BufId) (o n : Nat) : (s.bufForget buf o n).off = s.off := rfl
@[simp] theorem bufForget_sz (buf : BufId) (o n : Nat) : (s.bufForget buf o n).sz = s.sz := rfl
@[simp] theorem bufForget_acc (buf : BufId) (o n : Nat) : (s.bufForget buf o n).acc = s.acc := rfl
@[simp] theorem bufForget_tmp (buf : BufId) (o n : Nat) : (s.bufForget buf o n).tmp = s.tmp := rfl
@[simp] theorem bufForget_mem (buf : BufId) (o n : Nat) : (s.bufForget buf o n).mem = s.mem.forget buf o n := rfl
@[simp] theorem bufForget_bufLens (buf : BufId) (o n : Nat) : (s.bufForget buf o n).bufLens = s.bufLens := rfl
@[simp] theorem bufForget_port (buf : BufId) (o n : Nat) : (s.bufForget buf o n).port = s.port := rfl
@[simp] theorem bufForget_issuer (buf : BufId) (o n : Nat) : (s.bufForget buf o n).issuer = s.issuer := rfl
@[simp] theorem bufForget_sched (buf : BufId) (o n : Nat) : (s.bufForget buf o n).sched = s.sched := rfl
@[simp] theorem bufForget_oracle (buf : BufId) (o n : Nat) : (s.bufForget buf o n).oracle = s.oracle := rfl
@[simp] theorem bufForget_draws (buf : BufId) (o n : Nat) : (s.bufForget buf o n).draws = s.draws := rfl
@[simp] theorem bufForget_results (buf : BufId) (o n : Nat) : (s.bufForget buf o n).results = s.results := rfl

@[simp] theorem voidCommand_cfg : (s.voidCommand).cfg = s.cfg := rfl
@[simp] theorem voidCommand_crcOff : (s.voidCommand).crcOff = s.crcOff := rfl
@[simp] theorem voidCommand_lock : (s.voidCommand).lock = s.lock := rfl
@[simp] theorem voidCommand_seqs : (s.voidCommand).seqs = s.seqs := rfl
@[simp] theorem voidCommand_h : (s.voidCommand).h = s.h := rfl
@[simp] theorem voidCommand_crc : (s.voidCommand).crc = s.crc := rfl
@[simp] theorem voidCommand_cb : (s.voidCommand).cb = freeBytes 9 s.draws := rfl
@[simp] theorem voidCommand_cbLen : (s.voidCommand).cbLen = BitVec.ofNat 4 ((Config.freeByte (s.draws + 9)).toNat % 10) := rfl
@[simp] theorem voidCommand_rsp : (s.voidCommand).rsp = s.rsp := rfl
@[simp] theorem voidCommand_cmd : (s.voidCommand).cmd = s.cmd := rfl
@[simp] theorem voidCommand_clk : (s.voidCommand).clk = s.clk := rfl
@[simp] theorem voidCommand_rk : (s.voidCommand).rk = s.rk := rfl
@[simp] theorem voidCommand_att : (s.voidCommand).att = s.att := rfl
@[simp] theorem voidCommand_ix : (s.voidCommand).ix = s.ix := rfl
@[simp] theorem voidCommand_rem : (s.voidCommand).rem = s.rem := rfl
@[simp] theorem voidCommand_nb : (s.voidCommand).nb = s.nb := rfl
@[simp] theorem voidCommand_order : (s.voidCommand).order = s.order := rfl
@[simp] theorem voidCommand_addr : (s.voidCommand).addr = s.addr := rfl
@[simp] theorem voidCommand_off : (s.voidCommand).off = s.off := rfl
@[simp] theorem voidCommand_sz : (s.voidCommand).sz = s.sz := rfl
@[simp] theorem voidCommand_acc : (s.voidCommand).acc = s.acc := rfl
@[simp] theorem voidCommand_tmp : (s.voidCommand).tmp = s.tmp := rfl
@[simp] theorem voidCommand_mem : (s.voidCommand).mem = s.mem := rfl
@[simp] theorem voidCommand_bufLens : (s.voidCommand).bufLens = s.bufLens := rfl
@[simp] theorem voidCommand_port : (s.voidCommand).port = s.port := rfl
@[simp] theorem voidCommand_issuer : (s.voidCommand).issuer = s.issuer := rfl
@[simp] theorem voidCommand_sched : (s.voidCommand).sched = s.sched := rfl
@[simp] theorem voidCommand_oracle : (s.voidCommand).oracle = s.oracle := rfl
@[simp] theorem voidCommand_draws : (s.voidCommand).draws = s.draws + 10 := rfl
@[simp] theorem voidCommand_results : (s.voidCommand).results = s.results := rfl

@[simp] theorem voidTransients_cfg : (s.voidTransients).cfg = s.cfg := rfl
@[simp] theorem voidTransients_crcOff : (s.voidTransients).crcOff = s.crcOff := rfl
@[simp] theorem voidTransients_lock : (s.voidTransients).lock = s.lock := rfl
@[simp] theorem voidTransients_seqs : (s.voidTransients).seqs = s.seqs := rfl
@[simp] theorem voidTransients_h : (s.voidTransients).h = s.h := rfl
@[simp] theorem voidTransients_cb : (s.voidTransients).cb = freeBytes 9 (s.draws + 1) := rfl
@[simp] theorem voidTransients_cbLen : (s.voidTransients).cbLen = BitVec.ofNat 4 ((Config.freeByte (s.draws + 10)).toNat % 10) := rfl
@[simp] theorem voidTransients_att : (s.voidTransients).att = (Config.freeByte (s.draws + 26)).setWidth 4 := rfl
@[simp] theorem voidTransients_addr : (s.voidTransients).addr = freeWord (s.draws + 27) := rfl
@[simp] theorem voidTransients_off : (s.voidTransients).off = freeWord (s.draws + 31) := rfl
@[simp] theorem voidTransients_sz : (s.voidTransients).sz = freeWord (s.draws + 35) := rfl
@[simp] theorem voidTransients_acc : (s.voidTransients).acc = Config.freeByte (s.draws + 39) := rfl
@[simp] theorem voidTransients_tmp : (s.voidTransients).tmp = freeBytes 4 (s.draws + 22) := rfl
@[simp] theorem voidTransients_mem : (s.voidTransients).mem = s.mem := rfl
@[simp] theorem voidTransients_bufLens : (s.voidTransients).bufLens = s.bufLens := rfl
@[simp] theorem voidTransients_port : (s.voidTransients).port = s.port := rfl
@[simp] theorem voidTransients_issuer : (s.voidTransients).issuer = s.issuer := rfl
@[simp] theorem voidTransients_sched : (s.voidTransients).sched = s.sched := rfl
@[simp] theorem voidTransients_oracle : (s.voidTransients).oracle = s.oracle := rfl
@[simp] theorem voidTransients_draws : (s.voidTransients).draws = s.draws + 40 := rfl
@[simp] theorem voidTransients_results : (s.voidTransients).results = s.results := rfl

@[simp] theorem voidTransients_crc : (s.voidTransients).crc = (Config.freeByte s.draws).setWidth 7 := rfl
@[simp] theorem voidTransients_rsp : (s.voidTransients).rsp = Config.freeByte (s.draws + 11) := rfl
@[simp] theorem voidTransients_cmd : (s.voidTransients).cmd = Config.freeByte (s.draws + 12) := rfl
@[simp] theorem voidTransients_clk : (s.voidTransients).clk = (Config.freeByte (s.draws + 13)).getLsbD 0 := rfl
@[simp] theorem voidTransients_rk : (s.voidTransients).rk = (Config.freeByte (s.draws + 14)).setWidth 4 := rfl
@[simp] theorem voidTransients_ix : (s.voidTransients).ix = Config.freeByte (s.draws + 15) ++ Config.freeByte (s.draws + 16) := rfl
@[simp] theorem voidTransients_rem : (s.voidTransients).rem = Config.freeByte (s.draws + 17) ++ Config.freeByte (s.draws + 18) := rfl
@[simp] theorem voidTransients_nb : (s.voidTransients).nb = (Config.freeByte (s.draws + 19) ++ Config.freeByte (s.draws + 20) : BitVec 16).setWidth 14 := rfl
@[simp] theorem voidTransients_order : (s.voidTransients).order = (Config.freeByte (s.draws + 21)).setWidth 2 := rfl

@[simp] theorem afterFailure_cfg (t : State) : (afterFailure s t).cfg = (spiReset t).cfg := rfl
@[simp] theorem afterFailure_crcOff (t : State) : (afterFailure s t).crcOff = (spiReset t).crcOff := rfl
@[simp] theorem afterFailure_lock (t : State) : (afterFailure s t).lock = (spiReset t).lock := rfl
@[simp] theorem afterFailure_seqs (t : State) : (afterFailure s t).seqs = (spiReset t).seqs := rfl
@[simp] theorem afterFailure_h (t : State) : (afterFailure s t).h = (spiReset t).h := rfl
@[simp] theorem afterFailure_crc (t : State) : (afterFailure s t).crc = (spiReset t).crc := rfl
@[simp] theorem afterFailure_cb (t : State) : (afterFailure s t).cb = (spiReset t).cb := rfl
@[simp] theorem afterFailure_cbLen (t : State) : (afterFailure s t).cbLen = (spiReset t).cbLen := rfl
@[simp] theorem afterFailure_rsp (t : State) : (afterFailure s t).rsp = (spiReset t).rsp := rfl
@[simp] theorem afterFailure_cmd (t : State) : (afterFailure s t).cmd = (spiReset t).cmd := rfl
@[simp] theorem afterFailure_clk (t : State) : (afterFailure s t).clk = (spiReset t).clk := rfl
@[simp] theorem afterFailure_rk (t : State) : (afterFailure s t).rk = (spiReset t).rk := rfl
@[simp] theorem afterFailure_ix (t : State) : (afterFailure s t).ix = (spiReset t).ix := rfl
@[simp] theorem afterFailure_rem (t : State) : (afterFailure s t).rem = (spiReset t).rem := rfl
@[simp] theorem afterFailure_nb (t : State) : (afterFailure s t).nb = (spiReset t).nb := rfl
@[simp] theorem afterFailure_order (t : State) : (afterFailure s t).order = (spiReset t).order := rfl
@[simp] theorem afterFailure_addr (t : State) : (afterFailure s t).addr = (spiReset t).addr := rfl
@[simp] theorem afterFailure_off (t : State) : (afterFailure s t).off = (spiReset t).off := rfl
@[simp] theorem afterFailure_sz (t : State) : (afterFailure s t).sz = (spiReset t).sz := rfl
@[simp] theorem afterFailure_acc (t : State) : (afterFailure s t).acc = (spiReset t).acc := rfl
@[simp] theorem afterFailure_tmp (t : State) : (afterFailure s t).tmp = (spiReset t).tmp := rfl
@[simp] theorem afterFailure_mem (t : State) : (afterFailure s t).mem = (spiReset t).mem := rfl
@[simp] theorem afterFailure_bufLens (t : State) : (afterFailure s t).bufLens = (spiReset t).bufLens := rfl
@[simp] theorem afterFailure_port (t : State) : (afterFailure s t).port = (spiReset t).port := rfl
@[simp] theorem afterFailure_issuer (t : State) : (afterFailure s t).issuer = (spiReset t).issuer := rfl
@[simp] theorem afterFailure_sched (t : State) : (afterFailure s t).sched = (spiReset t).sched := rfl
@[simp] theorem afterFailure_oracle (t : State) : (afterFailure s t).oracle = (spiReset t).oracle := rfl
@[simp] theorem afterFailure_draws (t : State) : (afterFailure s t).draws = (spiReset t).draws := rfl
@[simp] theorem afterFailure_results (t : State) : (afterFailure s t).results = (spiReset t).results := rfl
@[simp] theorem afterFailure_att (t : State) : (afterFailure s t).att = s.att + 1 := rfl

end Sys2Proof.Machine
end

