-- ==== Sys2Proof/Laws/Ops.lean ====
section
/-! SUPPORT. What each shared operation can do, said once. `Inside s t` is the frame of every internal operation of layers G,
T and X, failed or not: nothing outside the operation changes, and the history grows by bursts alone. `Within s t` is that of
layers G and T: it leaves the registers of `RETRY` and of the chunk loop alone besides. -/

namespace Sys2Proof.Machine

/-! ## Composing facts about operations -/

/-- However the operation ends, it leaves a state related to the one it began in. -/
def Keeps (R : State → State → Prop) {α : Type} (x : Op α) : Prop := ∀ s, R s (x s).2

theorem keeps_give {R : State → State → Prop} (refl : ∀ s, R s s) {α : Type} (a : α) : Keeps R (give a) := fun s => refl s

theorem keeps_raise {R : State → State → Prop} (refl : ∀ s, R s s) {α : Type} (c : Cause) :
    Keeps R (raise (α := α) c) := fun s => refl s

theorem keeps_assign {R : State → State → Prop} {f : State → State} (h : ∀ s, R s (f s)) : Keeps R (assign f) := h

theorem keeps_andThen {R : State → State → Prop} (trans : ∀ s t u, R s t → R t u → R s u) {α β : Type} {x : Op α}
    {f : α → Op β} (hx : Keeps R x) (hf : ∀ a, Keeps R (f a)) : Keeps R (andThen x f) := by
  intro s
  have h1 := hx s
  unfold andThen
  rcases h : x s with ⟨a | c, t⟩ <;> rw [h] at h1
  · exact trans _ _ _ h1 (hf a t)
  · exact h1

/-- The bind lemma: `andThen x f` ends in success only when both do. -/
theorem andThen_ok {α β : Type} {x : Op α} {f : α → Op β} {s u : State} {b : β} (h : andThen x f s = (.ok b, u)) :
    ∃ a t, x s = (.ok a, t) ∧ f a t = (.ok b, u) := by
  unfold andThen at h
  rcases hx : x s with ⟨a | c, t⟩ <;> rw [hx] at h
  · exact ⟨a, t, rfl, h⟩
  · cases h

theorem andThen_of_ok {α β : Type} {x : Op α} {f : α → Op β} {s t : State} {a : α} (h : x s = (.ok a, t)) :
    andThen x f s = f a t := by simp [andThen, h]

theorem andThen_of_fail {α β : Type} {x : Op α} {f : α → Op β} {s t : State} {c : Cause} (h : x s = (.fail c, t)) :
    andThen x f s = (.fail c, t) := by simp [andThen, h]

/-! ## The frame of an internal operation -/

theorem sameOutside_refl (s : State) : s.SameOutside s := ⟨rfl, rfl, rfl, rfl, rfl, rfl, rfl, rfl⟩

theorem sameOutside_trans {s t u : State} (a : s.SameOutside t) (b : t.SameOutside u) : s.SameOutside u where
  cfg := b.cfg.trans a.cfg
  crcOff := b.crcOff.trans a.crcOff
  lock := b.lock.trans a.lock
  seqs := b.seqs.trans a.seqs
  bufLens := b.bufLens.trans a.bufLens
  port := b.port.trans a.port
  issuer := b.issuer.trans a.issuer
  sched := b.sched.trans a.sched

/-- The history grew by bursts alone. -/
def GrewByBursts (s t : State) : Prop := ∃ evs : List Event, t.h = s.h ++ evs ∧ ∀ e ∈ evs, e.isBurst = true

theorem grew_refl (s : State) : GrewByBursts s s := ⟨[], by simp, by simp⟩

theorem grew_trans {s t u : State} (a : GrewByBursts s t) (b : GrewByBursts t u) : GrewByBursts s u := by
  obtain ⟨e1, h1, p1⟩ := a
  obtain ⟨e2, h2, p2⟩ := b
  refine ⟨e1 ++ e2, by rw [h2, h1, List.append_assoc], fun e he => ?_⟩
  rcases List.mem_append.mp he with h | h
  · exact p1 e h
  · exact p2 e h

/-- All an internal operation of layers G, T and X can do outside itself. -/
structure Inside (s t : State) : Prop where
  outside : s.SameOutside t
  grew : GrewByBursts s t
  results : t.results = s.results

theorem inside_refl (s : State) : Inside s s := ⟨sameOutside_refl s, grew_refl s, rfl⟩

theorem inside_trans {s t u : State} (a : Inside s t) (b : Inside t u) : Inside s u :=
  ⟨sameOutside_trans a.outside b.outside, grew_trans a.grew b.grew, b.results.trans a.results⟩

theorem inside_andThen {α β : Type} {x : Op α} {f : α → Op β} (hx : Keeps Inside x) (hf : ∀ a, Keeps Inside (f a)) :
    Keeps Inside (andThen x f) := keeps_andThen (R := Inside) (fun _ _ _ => inside_trans) hx hf

/-- An update that touches none of the fields an operation's frame names. -/
theorem inside_of_eq {s t : State} (h : t.h = s.h) (ho : s.SameOutside t) (hr : t.results = s.results) : Inside s t :=
  ⟨ho, ⟨[], by simp [h], by simp⟩, hr⟩

/-- All an internal operation of layers G and T can do outside itself. -/
structure Within (s t : State) : Prop extends Inside s t where
  att : t.att = s.att
  block : s.SameBlock t

theorem within_refl (s : State) : Within s s := ⟨inside_refl s, rfl, ⟨rfl, rfl, rfl, rfl⟩⟩

theorem within_trans {s t u : State} (a : Within s t) (b : Within t u) : Within s u :=
  ⟨inside_trans a.toInside b.toInside, b.att.trans a.att, ⟨b.block.addr.trans a.block.addr, b.block.off.trans a.block.off,
    b.block.sz.trans a.block.sz, b.block.acc.trans a.block.acc⟩⟩

theorem within_andThen {α β : Type} {x : Op α} {f : α → Op β} (hx : Keeps Within x) (hf : ∀ a, Keeps Within (f a)) :
    Keeps Within (andThen x f) := keeps_andThen (R := Within) (fun _ _ _ => within_trans) hx hf

/-- An update that touches none of the fields the frame names. -/
theorem within_of_eq {s t : State} (h : t.h = s.h) (ho : s.SameOutside t) (hr : t.results = s.results) (ha : t.att = s.att)
    (hb : s.SameBlock t) : Within s t := ⟨inside_of_eq h ho hr, ha, hb⟩

/-- An operation of layer T is one of layer X's. -/
theorem inside_of_within {α : Type} {x : Op α} (h : Keeps Within x) : Keeps Inside x := fun s => (h s).toInside

/-- Logging a burst. -/
theorem within_log (s : State) {e : Event} (he : e.isBurst = true) : Within s (s.log e) :=
  ⟨⟨⟨rfl, rfl, rfl, rfl, rfl, rfl, rfl, rfl⟩, ⟨[e], rfl, by simpa using he⟩, rfl⟩, rfl, ⟨rfl, rfl, rfl, rfl⟩⟩

/-! ## Transport -/

theorem freeBytes_length (n d : Nat) : (freeBytes n d).length = n := by
  induction n generalizing d with
  | zero => rfl
  | succ n ih => simp [freeBytes, ih]

/-- A read returns as many bytes as it was asked for (00_scope R9). -/
theorem fitBytes_length (n d : Nat) (bs : List Byte) : (fitBytes n d bs).length = n := by
  simp [fitBytes, freeBytes_length]; omega

/-- A scripted answer of the right length is what the read returns. -/
theorem fitBytes_exact {n : Nat} {bs : List Byte} (h : bs.length = n) (d : Nat) : fitBytes n d bs = bs := by
  subst h; simp [fitBytes, freeBytes]

theorem answer_script {s : State} {a : Answer} {rest : List Answer} (h : s.oracle = a :: rest) :
    s.answer = (a, { s with oracle := rest }) := by simp [State.answer, h]

theorem answer_within (s : State) : Within s s.answer.2 := by
  unfold State.answer
  split <;> exact within_of_eq rfl ⟨rfl, rfl, rfl, rfl, rfl, rfl, rfl, rfl⟩ rfl rfl ⟨rfl, rfl, rfl, rfl⟩

/-- `TxWrite` appends one write event, whatever the answer. -/
theorem txWrite_spec (bs : List Byte) (s : State) :
    (txWrite bs s).2 = s.answer.2.log (.w bs (txWrite bs s).1) := by
  unfold txWrite
  rcases h : s.answer with ⟨_ | b, t⟩ <;> rfl

/-- `TxRead(n)` appends one read event with its bytes, `n` of them, or with none. -/
theorem txRead_spec (n : Nat) (s : State) :
    ∃ t, Within s t ∧ t.h = s.h ∧ t.mem = s.mem ∧ (txRead n s).2 = t.log (.r n (txRead n s).1) ∧
      ∀ bs, (txRead n s).1 = some bs → bs.length = n := by
  have hi := answer_within s
  unfold txRead
  rcases h : s.answer with ⟨_ | b, t⟩ <;> rw [h] at hi
  · refine ⟨t, hi, ?_, ?_, rfl, by simp⟩ <;> (have := congrArg (fun x => x.2) h; simp only at this; rw [← this]; unfold State.answer; split <;> rfl)
  · refine ⟨t.drawn (n - b.length), within_trans hi (within_of_eq rfl ⟨rfl, rfl, rfl, rfl, rfl, rfl, rfl, rfl⟩ rfl rfl ⟨rfl, rfl, rfl, rfl⟩), ?_, ?_, rfl, ?_⟩
    · have := congrArg (fun x => x.2) h; simp only at this; simp only [drawn_h]; rw [← this]; unfold State.answer; split <;> rfl
    · have := congrArg (fun x => x.2) h; simp only at this; simp only [drawn_mem]; rw [← this]; unfold State.answer; split <;> rfl
    · intro bs hbs; simp only [Option.some.injEq] at hbs; subst hbs; exact fitBytes_length _ _ _

theorem sendBurst_good {s : State} {b : List Byte} {rest : List Answer} (h : s.oracle = .good b :: rest) (bs : List Byte) :
    sendBurst bs s = (.ok (), { s with oracle := rest }.log (.w bs true)) := by
  simp [sendBurst, txWrite, answer_script h]

theorem sendBurst_err {s : State} {rest : List Answer} (h : s.oracle = .err :: rest) (bs : List Byte) :
    sendBurst bs s = (.fail (.transportError s.h.length), { s with oracle := rest }.log (.w bs false)) := by
  simp [sendBurst, txWrite, answer_script h]

theorem readBurst_good {s : State} {n : Nat} {bs : List Byte} {rest : List Answer} (h : s.oracle = .good bs :: rest)
    (hn : bs.length = n) : readBurst n s = (.ok bs, { s with oracle := rest }.log (.r n (some bs))) := by
  subst hn
  have hz : ({ s with oracle := rest } : State).drawn 0 = { s with oracle := rest } := rfl
  simp [readBurst, txRead, answer_script h, fitBytes_exact rfl, hz]

theorem readBurst_err {s : State} {rest : List Answer} (h : s.oracle = .err :: rest) (n : Nat) :
    readBurst n s = (.fail (.transportError s.h.length), { s with oracle := rest }.log (.r n none)) := by
  simp [readBurst, txRead, answer_script h]

theorem readRsp_good {s : State} {b : Byte} {rest : List Answer} (h : s.oracle = .good [b] :: rest) :
    readRsp s = (.ok b, { { s with oracle := rest }.log (.r 1 (some [b])) with rsp := b }) := by
  unfold readRsp
  exact (andThen_of_ok (readBurst_good (n := 1) h rfl)).trans rfl

theorem readRsp_err {s : State} {rest : List Answer} (h : s.oracle = .err :: rest) :
    readRsp s = (.fail (.transportError s.h.length), { s with oracle := rest }.log (.r 1 none)) :=
  andThen_of_fail (readBurst_err h 1)

theorem sendBurst_within (bs : List Byte) : Keeps Within (sendBurst bs) := by
  intro s
  have h : (sendBurst bs s).2 = (txWrite bs s).2 := by
    unfold sendBurst; rcases txWrite bs s with ⟨_ | _, t⟩ <;> rfl
  rw [h, txWrite_spec]
  exact within_trans (answer_within s) (within_log _ rfl)

theorem readBurst_within (n : Nat) : Keeps Within (readBurst n) := by
  intro s
  have h : (readBurst n s).2 = (txRead n s).2 := by
    unfold readBurst; rcases txRead n s with ⟨_ | _, t⟩ <;> rfl
  obtain ⟨t, hi, _, _, ht, _⟩ := txRead_spec n s
  rw [h, ht]
  exact within_trans hi (within_log _ rfl)

theorem readRsp_within : Keeps Within readRsp :=
  within_andThen (readBurst_within 1) fun _ _ =>
    within_of_eq rfl ⟨rfl, rfl, rfl, rfl, rfl, rfl, rfl, rfl⟩ rfl rfl ⟨rfl, rfl, rfl, rfl⟩

theorem awaitLoop_within (accept : Byte → Bool) (cause : Byte → Cause) (k : Nat) : Keeps Within (awaitLoop accept cause k) := by
  induction k with
  | zero =>
    refine within_andThen readRsp_within fun b => ?_
    split
    · exact keeps_give within_refl ()
    · exact keeps_raise within_refl _
  | succ k ih =>
    refine within_andThen readRsp_within fun b => ?_
    split
    · exact keeps_give within_refl ()
    · refine within_andThen (keeps_assign fun s => ?_) fun _ => ih
      exact within_of_eq rfl ⟨rfl, rfl, rfl, rfl, rfl, rfl, rfl, rfl⟩ rfl rfl ⟨rfl, rfl, rfl, rfl⟩

theorem awaitByte_within (accept : Byte → Bool) (cause : Byte → Cause) : Keeps Within (awaitByte accept cause) := fun s =>
  within_trans (within_of_eq (t := { s with rk := 0 }) rfl ⟨rfl, rfl, rfl, rfl, rfl, rfl, rfl, rfl⟩ rfl rfl ⟨rfl, rfl, rfl, rfl⟩)
    (awaitLoop_within accept cause _ _)

theorem bufRead_within (buf : BufId) (off n : Nat) : Keeps Within (bufRead buf off n) := fun _ =>
  within_of_eq rfl ⟨rfl, rfl, rfl, rfl, rfl, rfl, rfl, rfl⟩ rfl rfl ⟨rfl, rfl, rfl, rfl⟩

/-! ## Commands -/

/-- The command buffer holds the frame it was loaded with. -/
theorem loadFrame_take (s : State) {fr : List Byte} (h : fr.length ≤ 9) :
    (s.loadFrame fr).cb.take (s.loadFrame fr).cbLen.toNat = fr := by
  have h16 : fr.length % 16 = fr.length := by omega
  simp [h16]

/-- `CB` is nine bytes whatever frame it holds. -/
theorem loadFrame_cb_length (s : State) {fr : List Byte} (h : fr.length ≤ 9) : (s.loadFrame fr).cb.length = 9 := by
  simp [freeBytes_length]; omega

theorem buildFrame_within (s : State) (body : List Byte) : Within s (s.buildFrame body) := by
  unfold State.buildFrame
  split <;> exact within_of_eq rfl ⟨rfl, rfl, rfl, rfl, rfl, rfl, rfl, rfl⟩ rfl rfl ⟨rfl, rfl, rfl, rfl⟩

theorem payload_length (c : CmdName) (adr dat sz : Word) (clk : Bool) : (payload c adr dat sz clk).length = npay c := by
  cases c <;> rfl

theorem spiCmd_within (cmd : Byte) (adr dat sz : Word) (clk : Bool) : Keeps Within (spiCmd cmd adr dat sz clk) := by
  intro s
  unfold spiCmd
  split
  · exact within_of_eq rfl ⟨rfl, rfl, rfl, rfl, rfl, rfl, rfl, rfl⟩ rfl rfl ⟨rfl, rfl, rfl, rfl⟩
  · refine within_trans (within_of_eq (t := { s with cmd := cmd, clk := clk }) rfl ⟨rfl, rfl, rfl, rfl, rfl, rfl, rfl, rfl⟩ rfl rfl ⟨rfl, rfl, rfl, rfl⟩) ?_
    exact within_trans (buildFrame_within _ _) (sendBurst_within _ _)

theorem command_within (c : CmdName) (adr dat sz : Word) (clk : Bool) : Keeps Within (command c adr dat sz clk) := fun s =>
  spiCmd_within _ adr dat sz clk s

theorem spiCmdRsp_within (cmd : Byte) : Keeps Within (spiCmdRsp cmd) :=
  within_andThen (awaitByte_within _ _) fun _ => awaitByte_within _ _

/-! ## Data -/

theorem store_within (d : Dest) (ix : Nat) (bs : List Byte) (s : State) : Within s (d.store ix bs s) := by
  cases d <;> exact within_of_eq rfl ⟨rfl, rfl, rfl, rfl, rfl, rfl, rfl, rfl⟩ rfl rfl ⟨rfl, rfl, rfl, rfl⟩

theorem lose_within (d : Dest) (n : Nat) (s : State) : Within s (d.lose n s) := by
  cases d <;> exact within_of_eq rfl ⟨rfl, rfl, rfl, rfl, rfl, rfl, rfl, rfl⟩ rfl rfl ⟨rfl, rfl, rfl, rfl⟩

theorem setPhase_within (s : State) (i m : Nat) : Within s (s.setPhase i m) :=
  within_of_eq rfl ⟨rfl, rfl, rfl, rfl, rfl, rfl, rfl, rfl⟩ rfl rfl ⟨rfl, rfl, rfl, rfl⟩

theorem discardTrailer_within (clk : Bool) : Keeps Within (discardTrailer clk) := by
  intro s
  unfold discardTrailer
  split
  · exact within_andThen (readBurst_within 2) (fun _ => keeps_give within_refl ()) s
  · exact within_refl s

theorem readFrame_within (d : Dest) (clk : Bool) (ix nb : Nat) : Keeps Within (readFrame d clk ix nb) :=
  within_andThen (keeps_assign fun _ => within_of_eq rfl ⟨rfl, rfl, rfl, rfl, rfl, rfl, rfl, rfl⟩ rfl rfl ⟨rfl, rfl, rfl, rfl⟩) fun _ =>
    within_andThen (awaitByte_within _ _) fun _ =>
      within_andThen (readBurst_within nb) fun bs =>
        within_andThen (keeps_assign fun s => store_within d ix bs s) fun _ => discardTrailer_within clk

theorem readFrames_within (d : Dest) (clk : Bool) (fuel ix rem : Nat) : Keeps Within (readFrames d clk fuel ix rem) := by
  induction fuel generalizing ix rem with
  | zero => exact keeps_give within_refl ()
  | succ fuel ih =>
    intro s
    refine within_andThen (readFrame_within d clk ix _) (fun _ => ?_) s
    refine within_andThen (keeps_assign fun t => setPhase_within t _ _) fun _ t => ?_
    split
    · exact within_refl t
    · exact ih _ _ t

theorem spiDataRead_within (d : Dest) (size : Nat) (clk : Bool) : Keeps Within (spiDataRead d size clk) := by
  intro s
  have h := within_trans (setPhase_within s 0 size) (readFrames_within d clk size 0 size (s.setPhase 0 size))
  unfold spiDataRead
  rcases hr : readFrames d clk size 0 size (s.setPhase 0 size) with ⟨_ | c, t⟩ <;> rw [hr] at h
  · exact h
  · exact within_trans h (lose_within d size t)

theorem sendHeader_within (order : BitVec 2) : Keeps Within (sendHeader order) :=
  within_andThen (keeps_assign fun _ => within_of_eq rfl ⟨rfl, rfl, rfl, rfl, rfl, rfl, rfl, rfl⟩ rfl rfl ⟨rfl, rfl, rfl, rfl⟩) fun _ =>
    sendBurst_within _

theorem sendTrailer_within : Keeps Within sendTrailer := by
  intro s
  unfold sendTrailer
  split
  · exact sendBurst_within _ s
  · exact within_refl s

theorem writeFrame_within (buf : BufId) (off ix rem nb : Nat) : Keeps Within (writeFrame buf off ix rem nb) :=
  within_andThen (keeps_assign fun _ => within_of_eq rfl ⟨rfl, rfl, rfl, rfl, rfl, rfl, rfl, rfl⟩ rfl rfl ⟨rfl, rfl, rfl, rfl⟩) fun _ s =>
    within_andThen (sendHeader_within _) (fun _ =>
      within_andThen (bufRead_within buf _ nb) fun bs =>
        within_andThen (sendBurst_within bs) fun _ => sendTrailer_within) s

theorem writeFrames_within (buf : BufId) (off fuel ix rem : Nat) : Keeps Within (writeFrames buf off fuel ix rem) := by
  induction fuel generalizing ix rem with
  | zero => exact keeps_give within_refl ()
  | succ fuel ih =>
    intro s
    refine within_andThen (writeFrame_within buf off ix rem _) (fun _ => ?_) s
    refine within_andThen (keeps_assign fun t => setPhase_within t _ _) fun _ t => ?_
    split
    · exact within_refl t
    · exact ih _ _ t

theorem spiDataWrite_within (buf : BufId) (off size : Nat) : Keeps Within (spiDataWrite buf off size) := fun s =>
  within_trans (setPhase_within s 0 size) (writeFrames_within buf off size 0 size _)

/-! ## Transactions -/

theorem voidTransients_inside (s : State) : Inside s s.voidTransients :=
  inside_of_eq rfl ⟨rfl, rfl, rfl, rfl, rfl, rfl, rfl, rfl⟩ rfl

/-- Failure entry: a success is passed on; a failure keeps its cause. -/
theorem attempt_spec {α : Type} (lost : State → State) (x : Op α) (s : State) :
    (∃ a, x s = (.ok a, (attempt lost x s).2) ∧ (attempt lost x s).1 = .ok a) ∨
    (∃ c t, x s = (.fail c, t) ∧ attempt lost x s = (.fail c, lost t.voidTransients)) := by
  unfold attempt
  rcases h : x s with ⟨a | c, t⟩
  · exact .inl ⟨a, rfl, rfl⟩
  · exact .inr ⟨c, t, rfl, rfl⟩

theorem attempt_inside {α : Type} {lost : State → State} {x : Op α} (hl : ∀ s, Inside s (lost s)) (hx : Keeps Inside x) :
    Keeps Inside (attempt lost x) := by
  intro s
  have h := hx s
  unfold attempt
  rcases hr : x s with ⟨a | c, t⟩ <;> rw [hr] at h
  · exact h
  · exact inside_trans h (inside_trans (voidTransients_inside t) (hl _))

theorem spiReset_within (s : State) : Within s (spiReset s) :=
  within_trans (command_within .reset 0 0 0 false s) (spiCmdRsp_within _ _)

theorem xregRd_inside (adr : Word) : Keeps Inside (xregRd adr) :=
  attempt_inside inside_refl fun s =>
    inside_andThen (inside_of_within (command_within _ adr 0 4 _)) (fun _ =>
      inside_andThen (inside_of_within (spiCmdRsp_within _)) fun _ =>
        inside_andThen (inside_of_within (spiDataRead_within .tmp 4 _)) fun _ t => inside_refl t) s

theorem xregWr_inside (adr dat : Word) : Keeps Inside (xregWr adr dat) :=
  attempt_inside inside_refl fun s =>
    inside_andThen (inside_of_within (command_within _ adr dat 4 _)) (fun _ => inside_of_within (spiCmdRsp_within _)) s

theorem xblkRd_inside (adr : Word) (buf : BufId) (off n : Nat) : Keeps Inside (xblkRd adr buf off n) :=
  attempt_inside (fun s => (lose_within (.host buf off) n s).toInside) fun s =>
    inside_andThen (inside_of_within (command_within _ adr 0 _ _)) (fun _ =>
      inside_andThen (inside_of_within (spiCmdRsp_within _)) fun _ => inside_of_within (spiDataRead_within _ n false)) s

theorem xblkWr_inside (adr : Word) (buf : BufId) (off n : Nat) : Keeps Inside (xblkWr adr buf off n) :=
  attempt_inside inside_refl fun s =>
    inside_andThen (inside_of_within (command_within _ adr 0 _ _)) (fun _ =>
      inside_andThen (inside_of_within (spiCmdRsp_within _)) fun _ => inside_of_within (spiDataWrite_within buf off n)) s

/-- A failed attempt, its bus reset, and `ATT` counted. -/
theorem afterFailure_inside {s t : State} (h : Inside s t) : Inside s (afterFailure s t) :=
  inside_trans h (inside_trans (spiReset_within t).toInside
    (inside_of_eq rfl ⟨rfl, rfl, rfl, rfl, rfl, rfl, rfl, rfl⟩ rfl))

theorem retryLoop_inside {α : Type} {x : Op α} (hx : Keeps Inside x) (k : Nat) : Keeps Inside (retryLoop x k) := by
  induction k with
  | zero => exact keeps_raise inside_refl _
  | succ k ih =>
    intro s
    have h := hx s
    unfold retryLoop
    rcases hr : x s with ⟨a | c, t⟩ <;> rw [hr] at h
    · exact h
    · exact inside_trans (afterFailure_inside h) (ih _)

theorem retry_inside {α : Type} {x : Op α} (hx : Keeps Inside x) : Keeps Inside (retry x) := fun s =>
  inside_trans (inside_of_eq (t := { s with att := 0 }) rfl ⟨rfl, rfl, rfl, rfl, rfl, rfl, rfl, rfl⟩ rfl)
    (retryLoop_inside hx _ _)

/-- A retried operation fails for one reason only: the cause of the last attempt is lost (43_transactions R175). -/
theorem retryLoop_cause {α : Type} (x : Op α) (k : Nat) (s : State) {c : Cause} (h : (retryLoop x k s).1 = .fail c) :
    c = .retryExhausted := by
  induction k generalizing s with
  | zero => simp only [retryLoop, raise, Ret.fail.injEq] at h; exact h.symm
  | succ k ih =>
    unfold retryLoop at h
    rcases hr : x s with ⟨a | d, t⟩ <;> rw [hr] at h
    · cases h
    · exact ih _ h

/-! ## Guards -/

theorem admit_next {r : Nat} {s t : State} {k : Answered} (h : whenAdmitted r s k = .next t) : s.admits r ∧ k = .next t := by
  unfold whenAdmitted at h
  split_ifs at h with h1 h2 h3
  refine ⟨⟨by simpa using h1, by omega, ?_⟩, h⟩
  simpa using h3

theorem admit_of_admits {r : Nat} {s : State} (h : s.admits r) (k : Answered) : whenAdmitted r s k = k := by
  obtain ⟨h1, h2, h3⟩ := h
  have : ¬ s.cfg.nreq ≤ r := by omega
  simp [whenAdmitted, h1, this, h3]

theorem withBus_next {s t : State} {k : Answered} (h : withBus s k = .next t) : s.onBus ∧ k = .next t := by
  obtain ⟨h1, h2⟩ := admit_next h
  split_ifs at h2 with h3
  exact ⟨⟨h1, h3⟩, h2⟩

theorem withBus_of_onBus {s : State} (h : s.onBus) (k : Answered) : withBus s k = k := by
  simp [withBus, admit_of_admits h.1, h.2]

theorem runBus_of_onBus {α : Type} {s : State} (h : s.onBus) (x : Op α) (res : α → Result) :
    runBus s x res = .next (conclude s.issuer res (x s)) := withBus_of_onBus h _

theorem withBuffer_next {s t : State} {who : Nat} {buf : BufId} {off n : Nat} {w : Bool} {k : Answered}
    (h : withBuffer s who buf off n w k = .next t) : s.bufferReady who buf off n w ∧ k = .next t := by
  unfold withBuffer at h
  split_ifs at h with h1 h2 h3
  exact ⟨⟨by omega, by simpa using h2, by simpa using h3⟩, h⟩

theorem withBuffer_of_ready {s : State} {who : Nat} {buf : BufId} {off n : Nat} {w : Bool}
    (h : s.bufferReady who buf off n w) (k : Answered) : withBuffer s who buf off n w k = k := by
  obtain ⟨h1, h2, h3⟩ := h
  have a : ¬ n = 0 := by omega
  simp [withBuffer, a, h2, h3]

/-- An internal operation's result is one more entry of `results`; the rest is the operation's own. -/
theorem conclude_spec {α : Type} (r : Nat) (res : α → Result) (x : Ret α × State) :
    ∃ v, conclude r res x = x.2.report r v := by
  rcases x with ⟨a | c, t⟩
  · exact ⟨res a, rfl⟩
  · exact ⟨.fail c, rfl⟩

/-! ## The sequencer -/

theorem lookup_seqInsert (l : List (Nat × SeqPos)) (r q : Nat) (p : SeqPos) :
    (seqInsert l r p).lookup q = if q = r then some p else l.lookup q := by
  induction l with
  | nil =>
    by_cases h : q = r
    · simp [seqInsert, h]
    · simp [seqInsert, h, List.lookup, beq_eq_false_iff_ne.mpr h]
  | cons x l ih =>
    obtain ⟨k, y⟩ := x
    simp only [seqInsert]
    split_ifs with h1 h2 h3 h4 h5 <;> simp_all [List.lookup_cons]
    all_goals (split <;> simp_all)

theorem seqOf_setSeq (s : State) (r q : Nat) (p : SeqPos) :
    (s.setSeq r p).seqOf q = if q = r then some p else s.seqOf q := lookup_seqInsert s.seqs r q p

end Sys2Proof.Machine
end

