-- ==== Sys2Proof/Laws/Buffers.lean ====
section
/-! SUPPORT. What each operation does to the host buffers: `OnlyAt g a n` says that no byte but the `n` of buffer `g` from `a` on
changes and that the canonical form is kept. `OnlyAt g a 0` is an operation that writes no buffer. -/

namespace Sys2Proof.Machine

/-- Bytes change inside `[a, a + n)` of one buffer only, and the canonical form is kept. -/
def OnlyAt (g : BufId) (a n : Nat) (s t : State) : Prop :=
  (∀ b k, ¬ (b = g ∧ a ≤ k ∧ k < a + n) → t.mem.get? b k = s.mem.get? b k) ∧ (s.mem.wf → t.mem.wf)

theorem onlyAt_refl (g : BufId) (a n : Nat) (s : State) : OnlyAt g a n s s := ⟨fun _ _ _ => rfl, id⟩

theorem onlyAt_trans {g : BufId} {a n : Nat} {s t u : State} (h : OnlyAt g a n s t) (k : OnlyAt g a n t u) : OnlyAt g a n s u :=
  ⟨fun b x hx => (k.1 b x hx).trans (h.1 b x hx), fun w => k.2 (h.2 w)⟩

theorem onlyAt_of_eq {g : BufId} {a n : Nat} {s t : State} (h : t.mem = s.mem) : OnlyAt g a n s t :=
  ⟨fun _ _ _ => by rw [h], fun w => by rw [h]; exact w⟩

/-- A part of the region is in the region. -/
theorem onlyAt_mono {g : BufId} {a n b m : Nat} {s t : State} (h : OnlyAt g b m s t) (h1 : a ≤ b) (h2 : b + m ≤ a + n) : OnlyAt g a n s t :=
  ⟨fun c k hk => h.1 c k fun hc => hk ⟨hc.1, by omega⟩, h.2⟩

theorem onlyAt_andThen {g : BufId} {a n : Nat} {α β : Type} {x : Op α} {f : α → Op β} (hx : Keeps (OnlyAt g a n) x)
    (hf : ∀ v, Keeps (OnlyAt g a n) (f v)) : Keeps (OnlyAt g a n) (andThen x f) :=
  keeps_andThen (R := OnlyAt g a n) (fun _ _ _ => onlyAt_trans) hx hf

theorem bufWrite_onlyAt (s : State) (buf : BufId) (o : Nat) (bs : List Byte) :
    OnlyAt buf o bs.length s (s.bufWrite buf o bs) :=
  ⟨fun _ k hk => by simp [get?_writeRun, hk], fun w => wf_writeRun w _ _ _⟩

theorem bufForget_onlyAt (s : State) (buf : BufId) (o n : Nat) : OnlyAt buf o n s (s.bufForget buf o n) :=
  ⟨fun _ k hk => by simp [get?_forget, hk], fun w => wf_forget w _ _ _⟩

theorem answer_mem (s : State) : s.answer.2.mem = s.mem := by unfold State.answer; split <;> rfl

theorem sendBurst_onlyAt (g : BufId) (a n : Nat) (bs : List Byte) : Keeps (OnlyAt g a n) (sendBurst bs) := by
  intro s
  refine onlyAt_of_eq ?_
  have h : (sendBurst bs s).2 = (txWrite bs s).2 := by
    unfold sendBurst; rcases txWrite bs s with ⟨_ | _, t⟩ <;> rfl
  rw [h, txWrite_spec]
  exact answer_mem s

theorem readBurst_onlyAt (g : BufId) (a n m : Nat) : Keeps (OnlyAt g a n) (readBurst m) := by
  intro s
  refine onlyAt_of_eq ?_
  have h : (readBurst m s).2 = (txRead m s).2 := by
    unfold readBurst; rcases txRead m s with ⟨_ | _, t⟩ <;> rfl
  obtain ⟨t, _, _, hm, ht, _⟩ := txRead_spec m s
  rw [h, ht]
  exact hm

theorem awaitLoop_onlyAt (g : BufId) (a n : Nat) (accept : Byte → Bool) (cause : Byte → Cause) (k : Nat) :
    Keeps (OnlyAt g a n) (awaitLoop accept cause k) := by
  have hr : Keeps (OnlyAt g a n) readRsp := onlyAt_andThen (readBurst_onlyAt g a n 1) fun _ _ => onlyAt_of_eq rfl
  induction k with
  | zero =>
    refine onlyAt_andThen hr fun b => ?_
    split
    · exact keeps_give (onlyAt_refl g a n) ()
    · exact keeps_raise (onlyAt_refl g a n) _
  | succ k ih =>
    refine onlyAt_andThen hr fun b => ?_
    split
    · exact keeps_give (onlyAt_refl g a n) ()
    · exact onlyAt_andThen (keeps_assign fun _ => onlyAt_of_eq rfl) fun _ => ih

theorem awaitByte_onlyAt (g : BufId) (a n : Nat) (accept : Byte → Bool) (cause : Byte → Cause) :
    Keeps (OnlyAt g a n) (awaitByte accept cause) := fun s =>
  onlyAt_trans (onlyAt_of_eq (t := { s with rk := 0 }) rfl) (awaitLoop_onlyAt g a n accept cause _ _)

theorem spiCmd_onlyAt (g : BufId) (a n : Nat) (cmd : Byte) (adr dat sz : Word) (clk : Bool) :
    Keeps (OnlyAt g a n) (spiCmd cmd adr dat sz clk) := by
  intro s
  unfold spiCmd
  split
  · exact onlyAt_of_eq rfl
  · refine onlyAt_trans (onlyAt_of_eq (?_ : (State.buildFrame _ _).mem = s.mem)) (sendBurst_onlyAt g a n _ _)
    unfold State.buildFrame
    split <;> rfl

theorem command_onlyAt (g : BufId) (a n : Nat) (c : CmdName) (adr dat sz : Word) (clk : Bool) :
    Keeps (OnlyAt g a n) (command c adr dat sz clk) := fun s => spiCmd_onlyAt g a n _ adr dat sz clk s

theorem spiCmdRsp_onlyAt (g : BufId) (a n : Nat) (cmd : Byte) : Keeps (OnlyAt g a n) (spiCmdRsp cmd) :=
  onlyAt_andThen (awaitByte_onlyAt g a n _ _) fun _ => awaitByte_onlyAt g a n _ _

theorem discardTrailer_onlyAt (g : BufId) (a n : Nat) (clk : Bool) : Keeps (OnlyAt g a n) (discardTrailer clk) := by
  intro s
  unfold discardTrailer
  split
  · exact onlyAt_andThen (readBurst_onlyAt g a n 2) (fun _ => keeps_give (onlyAt_refl g a n) ()) s
  · exact onlyAt_refl g a n s

theorem spiReset_onlyAt (g : BufId) (a n : Nat) (s : State) : OnlyAt g a n s (spiReset s) :=
  onlyAt_trans (command_onlyAt g a n .reset 0 0 0 false s) (spiCmdRsp_onlyAt g a n _ _)

theorem sendHeader_onlyAt (g : BufId) (a n : Nat) (order : BitVec 2) : Keeps (OnlyAt g a n) (sendHeader order) :=
  onlyAt_andThen (keeps_assign fun _ => onlyAt_of_eq rfl) fun _ => sendBurst_onlyAt g a n _

theorem writeFrame_onlyAt (g : BufId) (a n : Nat) (buf : BufId) (off ix rem nb : Nat) :
    Keeps (OnlyAt g a n) (writeFrame buf off ix rem nb) :=
  onlyAt_andThen (keeps_assign fun _ => onlyAt_of_eq rfl) fun _ s =>
    onlyAt_andThen (sendHeader_onlyAt g a n _) (fun _ =>
      onlyAt_andThen (fun _ => onlyAt_of_eq rfl) fun bs =>
        onlyAt_andThen (sendBurst_onlyAt g a n bs) fun _ u => by
          unfold sendTrailer
          split
          · exact sendBurst_onlyAt g a n _ u
          · exact onlyAt_refl g a n u) s

theorem writeFrames_onlyAt (g : BufId) (a n : Nat) (buf : BufId) (off fuel ix rem : Nat) :
    Keeps (OnlyAt g a n) (writeFrames buf off fuel ix rem) := by
  induction fuel generalizing ix rem with
  | zero => exact keeps_give (onlyAt_refl g a n) ()
  | succ fuel ih =>
    intro s
    refine onlyAt_andThen (writeFrame_onlyAt g a n buf off ix rem _) (fun _ => ?_) s
    refine onlyAt_andThen (keeps_assign fun t => onlyAt_of_eq rfl) fun _ t => ?_
    split
    · exact onlyAt_refl g a n t
    · exact ih _ _ t

/-- `SPI_DATA_WRITE` writes no buffer. -/
theorem spiDataWrite_onlyAt (g : BufId) (a n : Nat) (buf : BufId) (off size : Nat) : Keeps (OnlyAt g a n) (spiDataWrite buf off size) :=
  fun s => onlyAt_trans (onlyAt_of_eq (t := s.setPhase 0 size) rfl) (writeFrames_onlyAt g a n buf off size 0 size _)

/-- The bytes a data phase of `size` bytes may write: those of its buffer, or none. -/
def Dest.within (d : Dest) (size : Nat) (g : BufId) (a n : Nat) : Prop :=
  match d with
  | .host buf off => buf = g ∧ a ≤ off ∧ off + size ≤ a + n
  | .tmp => True

theorem readBurst_length {m : Nat} {s t : State} {bs : List Byte} (h : readBurst m s = (.ok bs, t)) : bs.length = m := by
  obtain ⟨_, _, _, _, _, hl⟩ := txRead_spec m s
  unfold readBurst at h
  rcases hr : txRead m s with ⟨_ | c, u⟩ <;> rw [hr] at h hl
  · cases h
  · simp only [Prod.mk.injEq, Ret.ok.injEq] at h
    exact h.1 ▸ hl c rfl

theorem store_onlyAt {g : BufId} {a n size : Nat} {d : Dest} (hd : d.within size g a n) {ix : Nat} {bs : List Byte}
    (h : ix + bs.length ≤ size) (s : State) : OnlyAt g a n s (d.store ix bs s) := by
  cases d with
  | tmp => exact onlyAt_of_eq rfl
  | host buf off =>
    obtain ⟨rfl, h1, h2⟩ := hd
    exact onlyAt_mono (bufWrite_onlyAt s buf (off + ix) bs) (by omega) (by omega)

theorem readFrame_onlyAt {g : BufId} {a n size : Nat} {d : Dest} (hd : d.within size g a n) (clk : Bool) {ix nb : Nat}
    (h : ix + nb ≤ size) : Keeps (OnlyAt g a n) (readFrame d clk ix nb) := by
  refine onlyAt_andThen (keeps_assign fun _ => onlyAt_of_eq rfl) fun _ => ?_
  refine onlyAt_andThen (awaitByte_onlyAt g a n _ _) fun _ s => ?_
  have h1 := readBurst_onlyAt g a n nb s
  rcases hr : readBurst nb s with ⟨bs | c, t⟩ <;> rw [hr] at h1
  · rw [andThen_of_ok hr]
    refine onlyAt_trans h1 (onlyAt_andThen (keeps_assign fun u => ?_) (fun _ => discardTrailer_onlyAt g a n clk) t)
    exact store_onlyAt hd (by rw [readBurst_length hr]; exact h) u
  · rw [andThen_of_fail hr]
    exact h1

theorem readFrames_onlyAt {g : BufId} {a n size : Nat} {d : Dest} (hd : d.within size g a n) (clk : Bool) (fuel : Nat) {ix rem : Nat}
    (h : ix + rem ≤ size) : Keeps (OnlyAt g a n) (readFrames d clk fuel ix rem) := by
  induction fuel generalizing ix rem with
  | zero => exact keeps_give (onlyAt_refl g a n) ()
  | succ fuel ih =>
    intro s
    refine onlyAt_andThen (readFrame_onlyAt hd clk (by omega)) (fun _ => ?_) s
    refine onlyAt_andThen (keeps_assign fun t => onlyAt_of_eq rfl) fun _ t => ?_
    split
    · exact onlyAt_refl g a n t
    · exact ih (by omega) t

/-- `SPI_DATA_READ` writes, and on a failure loses, its destination region only. -/
theorem spiDataRead_onlyAt {g : BufId} {a n size : Nat} {d : Dest} (hd : d.within size g a n) (clk : Bool) :
    Keeps (OnlyAt g a n) (spiDataRead d size clk) := by
  intro s
  have h := onlyAt_trans (onlyAt_of_eq (s := s) (t := s.setPhase 0 size) (a := a) (n := n) rfl)
    (readFrames_onlyAt hd clk size (by omega : 0 + size ≤ size) (s.setPhase 0 size))
  unfold spiDataRead
  rcases hr : readFrames d clk size 0 size (s.setPhase 0 size) with ⟨_ | c, t⟩ <;> rw [hr] at h
  · exact h
  · refine onlyAt_trans h ?_
    cases d with
    | tmp => exact onlyAt_of_eq rfl
    | host buf off =>
      obtain ⟨rfl, h1, h2⟩ := hd
      exact onlyAt_mono (bufForget_onlyAt t buf off size) h1 h2

theorem attempt_onlyAt {g : BufId} {a n : Nat} {α : Type} {lost : State → State} {x : Op α} (hl : ∀ s, OnlyAt g a n s (lost s))
    (hx : Keeps (OnlyAt g a n) x) : Keeps (OnlyAt g a n) (attempt lost x) := by
  intro s
  have h := hx s
  unfold attempt
  rcases hr : x s with ⟨v | c, t⟩ <;> rw [hr] at h
  · exact h
  · exact onlyAt_trans h (onlyAt_trans (onlyAt_of_eq (t := t.voidTransients) rfl) (hl _))

/-- The register transactions write no host buffer. -/
theorem xregRd_onlyAt (g : BufId) (a n : Nat) (adr : Word) : Keeps (OnlyAt g a n) (xregRd adr) :=
  attempt_onlyAt (onlyAt_refl g a n) fun s =>
    onlyAt_andThen (command_onlyAt g a n _ adr 0 4 _) (fun _ =>
      onlyAt_andThen (spiCmdRsp_onlyAt g a n _) fun _ =>
        onlyAt_andThen (spiDataRead_onlyAt (d := .tmp) (size := 4) trivial _) fun _ t => onlyAt_refl g a n t) s

theorem xregWr_onlyAt (g : BufId) (a n : Nat) (adr dat : Word) : Keeps (OnlyAt g a n) (xregWr adr dat) :=
  attempt_onlyAt (onlyAt_refl g a n) fun s =>
    onlyAt_andThen (command_onlyAt g a n _ adr dat 4 _) (fun _ => spiCmdRsp_onlyAt g a n _) s

/-- A block read writes, and on a failure loses, its region only. -/
theorem xblkRd_onlyAt (adr : Word) (buf : BufId) (off n : Nat) : Keeps (OnlyAt buf off n) (xblkRd adr buf off n) :=
  attempt_onlyAt (fun s => bufForget_onlyAt s buf off n) fun s =>
    onlyAt_andThen (command_onlyAt _ _ _ _ adr 0 _ _) (fun _ =>
      onlyAt_andThen (spiCmdRsp_onlyAt _ _ _ _) fun _ =>
        spiDataRead_onlyAt (d := .host buf off) ⟨rfl, le_refl _, le_refl _⟩ false) s

/-- A block write writes no host buffer. -/
theorem xblkWr_onlyAt (g : BufId) (a m : Nat) (adr : Word) (buf : BufId) (off n : Nat) : Keeps (OnlyAt g a m) (xblkWr adr buf off n) :=
  attempt_onlyAt (onlyAt_refl g a m) fun s =>
    onlyAt_andThen (command_onlyAt g a m _ adr 0 _ _) (fun _ =>
      onlyAt_andThen (spiCmdRsp_onlyAt g a m _) fun _ => spiDataWrite_onlyAt g a m buf off n) s

theorem afterFailure_onlyAt {g : BufId} {a n : Nat} {s t : State} (h : OnlyAt g a n s t) : OnlyAt g a n s (afterFailure s t) :=
  onlyAt_trans h (onlyAt_trans (spiReset_onlyAt g a n t) (onlyAt_of_eq rfl))

theorem retryLoop_onlyAt {g : BufId} {a n : Nat} {α : Type} {x : Op α} (hx : Keeps (OnlyAt g a n) x) (k : Nat) :
    Keeps (OnlyAt g a n) (retryLoop x k) := by
  induction k with
  | zero => exact keeps_raise (onlyAt_refl g a n) _
  | succ k ih =>
    intro s
    have h := hx s
    unfold retryLoop
    rcases hr : x s with ⟨v | c, t⟩ <;> rw [hr] at h
    · exact h
    · exact onlyAt_trans (afterFailure_onlyAt h) (ih _)

theorem retry_onlyAt {g : BufId} {a n : Nat} {α : Type} {x : Op α} (hx : Keeps (OnlyAt g a n) x) :
    Keeps (OnlyAt g a n) (retry x) := fun s =>
  onlyAt_trans (onlyAt_of_eq (t := { s with att := 0 }) rfl) (retryLoop_onlyAt hx _ _)

end Sys2Proof.Machine
end

