-- ==== Sys2Proof/Laws/Decode.lean ====
section
/-! SUPPORT. Marked sequences and numbers: what is written is what is read, whatever follows, and what is read is what was
written. -/

namespace Sys2Proof

/-- A sequence is read back, and what follows it is left. -/
theorem readSeq_seqBytes (bs tail : List Byte) : readSeq (seqBytes bs ++ tail) = .ok (bs, tail) := by
  induction bs with
  | nil => cases tail <;> simp [seqBytes, readSeq]
  | cons b bs ih => simp [seqBytes, readSeq, ih]

/-- What is read as a sequence is its bytes and what follows. -/
theorem seqBytes_of_readSeq {w bs tail : List Byte} (h : readSeq w = .ok (bs, tail)) : w = seqBytes bs ++ tail := by
  fun_induction readSeq w generalizing bs tail <;> simp_all [seqBytes]
  obtain ⟨rfl, rfl⟩ := h
  rfl

/-- The digits of a number are read as the number. -/
theorem ofDigits_digits {k n : Nat} (h : n ≤ k) : ofDigits (digits k n) = n := by
  induction k generalizing n with
  | zero => simp_all [digits, ofDigits]
  | succ k ih =>
    unfold digits
    split_ifs with h0
    · simp [ofDigits, h0]
    · rw [ofDigits, ih (by omega)]
      simp only [BitVec.toNat_ofNat]
      omega

/-- A sequence of digits is that of the number it is read as. -/
theorem digits_ofDigits {k : Nat} (ds : List Byte) (h : ofDigits ds ≤ k) : digits k (ofDigits ds) = ds := by
  induction ds generalizing k with
  | nil => cases k <;> rfl
  | cons d ds ih =>
    have hd := d.isLt
    simp only [ofDigits] at h ⊢
    obtain ⟨k, rfl⟩ : ∃ j, k = j + 1 := ⟨k - 1, by omega⟩
    have h1 : (d.toNat + 1 + 256 * ofDigits ds - 1) % 256 = d.toNat := by omega
    have h2 : (d.toNat + 1 + 256 * ofDigits ds - 1) / 256 = ofDigits ds := by omega
    rw [digits, if_neg (by omega), h1, h2, ih (by omega), BitVec.ofNat_toNat, BitVec.setWidth_eq]

/-- A number is read back, and what follows it is left. -/
theorem readNat_natBytes (n : Nat) (tail : List Byte) : readNat (natBytes n ++ tail) = .ok (n, tail) := by
  simp [readNat, natBytes, readSeq_seqBytes, ofDigits_digits]

/-- What is read as a number is its bytes and what follows. -/
theorem natBytes_of_readNat {w tail : List Byte} {n : Nat} (h : readNat w = .ok (n, tail)) : w = natBytes n ++ tail := by
  unfold readNat at h
  rcases hr : readSeq w with e | ⟨ds, u⟩
  · simp [hr] at h
  · simp only [hr, Except.ok.injEq, Prod.mk.injEq] at h
    obtain ⟨rfl, rfl⟩ := h
    rw [seqBytes_of_readSeq hr, natBytes, digits_ofDigits ds (le_refl _)]

end Sys2Proof
end

