-- ==== Sys2Proof/Laws/PerInstr.lean ====
section
/-! SUPPORT. Facts about every instruction, one lemma per constructor. `WordLength`: how many bytes an instruction's word has;
for a command it is `LEN1` of 30_encoding R72. -/

namespace Sys2Proof.Laws

/-- The length of a natural number's bytes: two for each digit, and the closing mark. -/
def natLength (n : Nat) : Nat := 2 * (digits n n).length + 1

/-- The length of an instruction's word. -/
def wordLength : Instr → Nat
  | .cmdDmaWrite .. => 6
  | .cmdDmaRead .. => 6
  | .cmdInternalWrite .. => 7
  | .cmdInternalRead .. => 4
  | .cmdTerminate => 4
  | .cmdRepeat => 4
  | .cmdDmaExtWrite .. => 7
  | .cmdDmaExtRead .. => 7
  | .cmdSingleWrite .. => 8
  | .cmdSingleRead .. => 4
  | .cmdReset => 4
  | .rspEcho .. => 1
  | .rspStatus => 1
  | .dataHdrFirst => 1
  | .dataHdrMiddle => 1
  | .dataHdrLast => 1
  | .dataRspHdr .. => 1
  | .crc7Byte .. => 3
  | .crc7 _ bs => 2 * bs.length + 3
  | .crc7Tx bs => 2 * bs.length + 2
  | .crc7Check bs => 2 * bs.length + 2
  | .spiCmd .. => 15
  | .spiCmdRsp .. => 2
  | .spiDataRead _ off _ _ => natLength off + 6
  | .spiDataWrite _ off _ => natLength off + 5
  | .spiReset => 1
  | .xregRd .. => 5
  | .xregWr .. => 9
  | .xblkRd _ _ off _ => natLength off + 9
  | .xblkWr _ _ off _ => natLength off + 9
  | .readReg r _ => natLength r + 5
  | .writeReg r _ _ => natLength r + 9
  | .readBlock r _ _ _ => natLength r + 11
  | .writeBlock r _ _ _ => natLength r + 11
  | .setCrc .. => 2
  | .lockAcquire r => natLength r + 1
  | .lockRelease r => natLength r + 1

theorem seqBytes_length (bs : List Byte) : (seqBytes bs).length = 2 * bs.length + 1 := by
  induction bs with
  | nil => rfl
  | cons b bs ih => simp only [seqBytes, List.length_cons, ih]; omega

theorem natBytes_length (n : Nat) : (natBytes n).length = natLength n := seqBytes_length _

/-- The encoder writes a word of that length, whatever the opcode map. -/
def WordLength.Statement (i : Instr) : Prop := ∀ m : OpcMap, (encode m i).length = wordLength i

theorem WordLength.cmdDmaWrite (a : BitVec 24) (sz : BitVec 16) : WordLength.Statement (.cmdDmaWrite a sz) := fun _ => rfl

theorem WordLength.cmdDmaRead (a : BitVec 24) (sz : BitVec 16) : WordLength.Statement (.cmdDmaRead a sz) := fun _ => rfl

theorem WordLength.cmdInternalWrite (k : Bool) (a : BitVec 15) (dat : Word) : WordLength.Statement (.cmdInternalWrite k a dat) := fun _ => rfl

theorem WordLength.cmdInternalRead (k : Bool) (a : BitVec 15) : WordLength.Statement (.cmdInternalRead k a) := fun _ => rfl

theorem WordLength.cmdTerminate : WordLength.Statement (.cmdTerminate) := fun _ => rfl

theorem WordLength.cmdRepeat : WordLength.Statement (.cmdRepeat) := fun _ => rfl

theorem WordLength.cmdDmaExtWrite (a : BitVec 24) (sz : BitVec 24) : WordLength.Statement (.cmdDmaExtWrite a sz) := fun _ => rfl

theorem WordLength.cmdDmaExtRead (a : BitVec 24) (sz : BitVec 24) : WordLength.Statement (.cmdDmaExtRead a sz) := fun _ => rfl

theorem WordLength.cmdSingleWrite (a : BitVec 24) (dat : Word) : WordLength.Statement (.cmdSingleWrite a dat) := fun _ => rfl

theorem WordLength.cmdSingleRead (a : BitVec 24) : WordLength.Statement (.cmdSingleRead a) := fun _ => rfl

theorem WordLength.cmdReset : WordLength.Statement (.cmdReset) := fun _ => rfl

theorem WordLength.rspEcho (o : Byte) : WordLength.Statement (.rspEcho o) := fun _ => rfl

theorem WordLength.rspStatus : WordLength.Statement (.rspStatus) := fun _ => rfl

theorem WordLength.dataHdrFirst : WordLength.Statement (.dataHdrFirst) := fun _ => rfl

theorem WordLength.dataHdrMiddle : WordLength.Statement (.dataHdrMiddle) := fun _ => rfl

theorem WordLength.dataHdrLast : WordLength.Statement (.dataHdrLast) := fun _ => rfl

theorem WordLength.dataRspHdr (x : BitVec 4) : WordLength.Statement (.dataRspHdr x) := fun _ => rfl

theorem WordLength.crc7Byte (c : Crc) (d : Byte) : WordLength.Statement (.crc7Byte c d) := fun _ => rfl

theorem WordLength.crc7 (seed : Crc) (bs : List Byte) : WordLength.Statement (.crc7 seed bs) := fun _ => by
  simp [encode, wordLength, seqBytes_length]

theorem WordLength.crc7Tx (bs : List Byte) : WordLength.Statement (.crc7Tx bs) := fun _ => by
  simp [encode, wordLength, seqBytes_length]

theorem WordLength.crc7Check (bs : List Byte) : WordLength.Statement (.crc7Check bs) := fun _ => by
  simp [encode, wordLength, seqBytes_length]

theorem WordLength.spiCmd (cmd : Byte) (adr dat sz : Word) (clk : Bool) : WordLength.Statement (.spiCmd cmd adr dat sz clk) := fun _ => rfl

theorem WordLength.spiCmdRsp (cmd : Byte) : WordLength.Statement (.spiCmdRsp cmd) := fun _ => rfl

theorem WordLength.spiDataRead (buf : BufId) (off : Nat) (size : BitVec 16) (clk : Bool) :
    WordLength.Statement (.spiDataRead buf off size clk) := fun _ => by
  simp [encode, wordLength, natBytes_length, be16]

theorem WordLength.spiDataWrite (buf : BufId) (off : Nat) (size : BitVec 16) :
    WordLength.Statement (.spiDataWrite buf off size) := fun _ => by
  simp [encode, wordLength, natBytes_length, be16]

theorem WordLength.spiReset : WordLength.Statement (.spiReset) := fun _ => rfl

theorem WordLength.xregRd (adr : Word) : WordLength.Statement (.xregRd adr) := fun _ => rfl

theorem WordLength.xregWr (adr dat : Word) : WordLength.Statement (.xregWr adr dat) := fun _ => rfl

theorem WordLength.xblkRd (adr : Word) (buf : BufId) (off : Nat) (n : BitVec 16) :
    WordLength.Statement (.xblkRd adr buf off n) := fun _ => by
  simp [encode, wordLength, natBytes_length, be16, be32]

theorem WordLength.xblkWr (adr : Word) (buf : BufId) (off : Nat) (n : BitVec 16) :
    WordLength.Statement (.xblkWr adr buf off n) := fun _ => by
  simp [encode, wordLength, natBytes_length, be16, be32]

theorem WordLength.readReg (r : Nat) (adr : Word) : WordLength.Statement (.readReg r adr) := fun _ => by
  simp [encode, wordLength, natBytes_length, be32]

theorem WordLength.writeReg (r : Nat) (adr dat : Word) : WordLength.Statement (.writeReg r adr dat) := fun _ => by
  simp [encode, wordLength, natBytes_length, be32]

theorem WordLength.readBlock (r : Nat) (adr : Word) (buf : BufId) (size : Word) : WordLength.Statement (.readBlock r adr buf size) := fun _ => by
  simp [encode, wordLength, natBytes_length, be32, be16]

theorem WordLength.writeBlock (r : Nat) (adr : Word) (buf : BufId) (size : Word) : WordLength.Statement (.writeBlock r adr buf size) := fun _ => by
  simp [encode, wordLength, natBytes_length, be32, be16]

theorem WordLength.setCrc (off : Bool) : WordLength.Statement (.setCrc off) := fun _ => rfl

theorem WordLength.lockAcquire (r : Nat) : WordLength.Statement (.lockAcquire r) := fun _ => by
  simp [encode, wordLength, natBytes_length]

theorem WordLength.lockRelease (r : Nat) : WordLength.Statement (.lockRelease r) := fun _ => by
  simp [encode, wordLength, natBytes_length]

end Sys2Proof.Laws
end

