-- ==== Sys2Proof/Laws/Step.lean ====
section
/-! SUPPORT. What a step can do, said once: one case for each way it answers a next state. -/

namespace Sys2Proof.Machine

/-- An operation of layer T or X that answers a next state: the issuer was on the bus, the state is the operation's, and its
result has been given. -/
theorem runBus_next {α : Type} {s t : State} {x : Op α} {res : α → Result} (h : runBus s x res = .next t) :
    s.onBus ∧ ∃ v, t = (x s).2.report s.issuer v := by
  obtain ⟨hb, hk⟩ := withBus_next h
  simp only [Host.Outcome.next.injEq] at hk
  obtain ⟨v, hv⟩ := conclude_spec s.issuer res (x s)
  exact ⟨hb, v, by rw [← hk, hv]⟩

/-- A locked unit: between taking the lock and giving it back, only what the transaction does inside. -/
theorem lockedRetry_spec {α : Type} {x : Op α} (hx : Keeps Inside x) (r : Nat) (s : State) :
    ∃ t, Inside (s.takeLock r) t ∧ (lockedRetry r x s).2 = t.dropLock r :=
  ⟨(retry x (s.takeLock r)).2, retry_inside hx _, rfl⟩

/-- The transaction of a chunk is one of the two block transactions. -/
theorem chunkOp_inside (c : Cfg) (b : BlockOp) : Keeps Inside (chunkOp c b) := by
  unfold chunkOp
  split
  · exact xblkWr_inside _ _ _ _
  · exact xblkRd_inside _ _ _ _

/-- What follows a chunk: the operation ends with its code, or stands before the next chunk. -/
theorem afterChunk_spec (r : Nat) (b : BlockOp) (failed : Bool) (s : State) :
    (∃ u, (u = s ∨ u = s.bufForget b.buf (b.off s.cfg).toNat (b.sz s.cfg).toNat) ∧
      afterChunk r b failed s = u.report r (.code s.acc)) ∨
    (¬ (b.sz s.cfg).toNat ≤ chunkSize s.cfg ∧ s.acc = 0 ∧
      afterChunk r b failed s = (s.loadBlock b.advance).setSeq r (.block b.advance)) := by
  unfold afterChunk
  split_ifs with h
  · left
    unfold endBlock
    split_ifs
    · exact ⟨_, .inr rfl, rfl⟩
    · exact ⟨s, .inl rfl, rfl⟩
  · right
    push Not at h
    exact ⟨by omega, h.2, rfl⟩

/-- What a block operation does with a chunk's unit: it goes on from its success or from its failure. -/
theorem endChunk_spec (r : Nat) (b : BlockOp) (x : Ret Unit × State) :
    (x.1 = .ok () ∧ endChunk r b x = afterChunk r b false { x.2.loadBlock b with acc := 0 + x.2.cfg.success }) ∨
    (∃ c, x.1 = .fail c ∧ endChunk r b x = afterChunk r b true { x.2 with acc := 0 + x.2.cfg.errBusFail }) := by
  rcases x with ⟨⟨⟩ | c, t⟩
  · exact .inl ⟨rfl, rfl⟩
  · exact .inr ⟨c, rfl, rfl⟩

/-- One turn of a block operation: it waits, or it runs its chunk's unit. -/
theorem chunkTurn_spec (r : Nat) (b : BlockOp) (s : State) :
    (s.lock ≠ .free ∧ chunkTurn r b s = s.setSeq r (.block b)) ∨
    (s.lock = .free ∧ chunkTurn r b s = endChunk r b (lockedRetry r (chunkOp s.cfg b) (s.loadBlock b))) := by
  unfold chunkTurn
  split_ifs with h
  · exact .inr ⟨h, rfl⟩
  · exact .inl ⟨h, rfl⟩

/-- Every way a step answers a next state: the requester whose turn it is has nothing to do; or tries again the operation it
waits with; or takes a turn of its block operation; or issues its next request. -/
theorem step_next {s t : State} (h : step s = .next t) :
    s.cfg.wf = true ∧
    ((s.turn.2.seqOf s.turn.1 = none ∧ s.turn.2.fetch s.turn.1 = .nothing ∧ t = s.turn.2) ∨
     (∃ i, s.turn.2.seqOf s.turn.1 = some (.waiting i) ∧ exec i (s.turn.2.resume s.turn.1) = .next t) ∨
     (∃ b, s.turn.2.seqOf s.turn.1 = some (.block b) ∧ t = chunkTurn s.turn.1 b (s.turn.2.resume s.turn.1)) ∨
     (∃ i u, s.turn.2.seqOf s.turn.1 = none ∧ s.turn.2.fetch s.turn.1 = .run i u ∧ exec i u = .next t)) := by
  unfold step at h
  split_ifs at h with hw
  refine ⟨by simpa using hw, ?_⟩
  unfold stepOf at h
  split at h
  · rename_i i hi
    exact .inr (.inl ⟨i, hi, h⟩)
  · rename_i b hb
    simp only [Host.Outcome.next.injEq] at h
    exact .inr (.inr (.inl ⟨b, hb, h.symm⟩))
  · rename_i hn
    split at h
    · rename_i hf
      simp only [Host.Outcome.next.injEq] at h
      exact .inl ⟨hn, hf, h.symm⟩
    · cases h
    · cases h
    · rename_i i u hf
      exact .inr (.inr (.inr ⟨i, u, hn, hf, h⟩))

/-- The scheduler changes only its own fields. -/
theorem turn_spec (s : State) : s.turn.2 = { s with sched := s.turn.2.sched, draws := s.turn.2.draws } := by
  unfold State.turn
  split
  · rfl
  · split <;> rfl

/-- A fetched instruction is a request of that requester, decoded; only the port and the issuer change. -/
theorem fetch_run {s u : State} {q : Nat} {i : Instr} (h : s.fetch q = .run i u) :
    ∃ x rest, takeRequest q s.port = some (x, rest) ∧ decodeIn s.cfg.opc x.space x.word = .ok i ∧
      issuedBy q i = true ∧ u = { s with port := rest, issuer := q } := by
  unfold State.fetch at h
  split at h
  · cases h
  · rename_i x rest hx
    split at h
    · cases h
    · rename_i j hj
      split_ifs at h with hq
      simp only [Fetched.run.injEq] at h
      exact ⟨x, rest, hx, h.1 ▸ hj, h.1 ▸ hq, h.2.symm⟩

end Sys2Proof.Machine
end

