-- ==== Sys2Proof/Tests/Slice0.lean ====
section
/-! SUPPORT. Tests: ill-formed terms the checks refuse; one word for every constructor, written out from the spec's encodings;
one or two steps for each instruction against the spec's examples and test vectors; and for every statement with hypotheses a
state and operands that meet them, at the ends of their ranges. -/

namespace Sys2Proof.Tests

open Sys2Proof.Machine

set_option maxRecDepth 100000

/-! ## Checks -/

theorem test_wf_opc_duplicate : { defaultOpc with reset := 0xC1 }.wf = false := by decide
theorem test_wf_opc_zero : { defaultOpc with reset := 0x00 }.wf = false := by decide
theorem test_wf_cfg_reset : defaultCfg.wf = true := by decide
theorem test_wf_cfg_no_chunk : { defaultCfg with maxTrxSz := 8 }.wf = false := by decide
theorem test_wf_cfg_no_packet : { defaultCfg with dataPktSz := 0 }.wf = false := by decide
theorem test_wf_cfg_failure_is_success : { defaultCfg with errBusFail := 0 }.wf = false := by decide
theorem test_wf_cfg_opc : { defaultCfg with opc := { defaultOpc with reset := 0xC1 } }.wf = false := by decide
theorem test_wf_cfg_no_requester : { defaultCfg with nreq := 0 }.wf = false := by decide
theorem test_wf_cfg_short_table : { defaultCfg with crc7Table := [0] }.wf = false := by decide
/-- 00_scope R7 puts no condition on `OP_RETRY`. -/
theorem test_wf_cfg_no_bound : { defaultCfg with opRetry := 0 }.wf = true := by decide

/-! ## Decoding: a word for every constructor. Commands: the frames of 41_spi_command R121 to R131 -/

/-- The instruction of a word under the opcode map of 30_encoding R81. -/
def decoded (sp : Space) (w : List Byte) : Option Instr :=
  match decodeIn defaultOpc sp w with
  | .ok i => some i
  | .error _ => none

theorem test_decode_dma_write :
    decoded .command [0xC1, 0x00, 0x10, 0x70, 0x01, 0x00] = some (.cmdDmaWrite 0x001070 0x0100) := by decide
theorem test_decode_dma_read :
    decoded .command [0xC2, 0x15, 0x04, 0x00, 0x01, 0x02] = some (.cmdDmaRead 0x150400 0x0102) := by decide
theorem test_decode_internal_write :
    decoded .command [0xC3, 0x80, 0x0B, 0x00, 0x00, 0x00, 0x01] = some (.cmdInternalWrite true 0x000B 1) := by decide
theorem test_decode_internal_read :
    decoded .command [0xC4, 0x12, 0x10, 0x00] = some (.cmdInternalRead false 0x1210) := by decide
theorem test_decode_terminate : decoded .command [0xC5, 0x00, 0x00, 0x00] = some .cmdTerminate := by decide
theorem test_decode_repeat : decoded .command [0xC6, 0x00, 0x00, 0x00] = some .cmdRepeat := by decide
theorem test_decode_dma_ext_write :
    decoded .command [0xC7, 0x15, 0x04, 0x00, 0x00, 0x00, 0x10] = some (.cmdDmaExtWrite 0x150400 16) := by decide
theorem test_decode_dma_ext_read :
    decoded .command [0xC8, 0x15, 0x04, 0x00, 0x01, 0x02, 0x03] = some (.cmdDmaExtRead 0x150400 0x010203) := by decide
theorem test_decode_single_write :
    decoded .command [0xC9, 0x00, 0x10, 0x70, 0x12, 0x34, 0x56, 0x78] = some (.cmdSingleWrite 0x001070 0x12345678) := by decide
theorem test_decode_single_read :
    decoded .command [0xCA, 0x15, 0x04, 0x00] = some (.cmdSingleRead 0x150400) := by decide
theorem test_decode_reset : decoded .command [0xCF, 0xFF, 0xFF, 0xFF] = some .cmdReset := by decide
theorem test_decode_no_command : decoded .command [0xCB, 0x00, 0x00, 0x00] = none := by decide
theorem test_decode_echo : decoded .echo [0xCA] = some (.rspEcho 0xCA) := by decide
theorem test_decode_status : decoded .status [0x00] = some .rspStatus := by decide
theorem test_decode_hdr_first : decoded .writeHeader [0xF1] = some .dataHdrFirst := by decide
theorem test_decode_hdr_middle : decoded .writeHeader [0xF2] = some .dataHdrMiddle := by decide
theorem test_decode_hdr_last : decoded .writeHeader [0xF3] = some .dataHdrLast := by decide
theorem test_decode_rsp_hdr : decoded .readHeader [0xF7] = some (.dataRspHdr 7) := by decide

/-! Requests: the select codes of 30_encoding R90, the operands of log entry 10. -/

theorem test_decode_crc7_byte : decoded .request [0x01, 0x7F, 0xCF] = some (.crc7Byte 0x7F 0xCF) := by decide
theorem test_decode_crc7 :
    decoded .request [0x02, 0x7F, 1, 0xCF, 1, 0xFF, 0, 0xEE] = some (.crc7 0x7F [0xCF, 0xFF]) := by decide
theorem test_decode_crc7_tx : decoded .request [0x03, 1, 0xCA, 0] = some (.crc7Tx [0xCA]) := by decide
theorem test_decode_crc7_check : decoded .request [0x04, 1, 0xCA, 1, 0x00, 0] = some (.crc7Check [0xCA, 0x00]) := by decide
theorem test_decode_spi_cmd :
    decoded .request [0x08, 0xCA, 0, 0, 0x10, 0x70, 1, 2, 3, 4, 0, 0, 0, 4, 1] =
      some (.spiCmd 0xCA 0x1070 0x01020304 4 true) := by decide
theorem test_decode_spi_cmd_rsp : decoded .request [0x09, 0xCA] = some (.spiCmdRsp 0xCA) := by decide
theorem test_decode_spi_data_read :
    decoded .request [0x0A, 0, 1, 1, 1, 0, 0x20, 3, 1] = some (.spiDataRead 1 2 0x2003 true) := by decide
theorem test_decode_spi_data_write :
    decoded .request [0x0B, 0, 1, 1, 1, 0, 0x20, 3] = some (.spiDataWrite 1 2 0x2003) := by decide
theorem test_decode_spi_reset : decoded .request [0x0C] = some .spiReset := by decide
theorem test_decode_xreg_rd : decoded .request [0x10, 0, 0, 0x10, 0x84] = some (.xregRd 0x1084) := by decide
theorem test_decode_xreg_wr : decoded .request [0x11, 0, 0, 0, 0x31, 0, 0, 0, 1] = some (.xregWr 0x31 1) := by decide
theorem test_decode_xblk_rd :
    decoded .request [0x12, 0, 0x15, 4, 0, 0, 1, 1, 1, 0, 0, 4] = some (.xblkRd 0x150400 1 2 4) := by decide
theorem test_decode_xblk_wr :
    decoded .request [0x13, 0, 0x15, 4, 0, 0, 1, 1, 1, 0, 0, 4] = some (.xblkWr 0x150400 1 2 4) := by decide
theorem test_decode_read_reg : decoded .request [0x18, 1, 0, 0, 0, 0, 0x10, 0x84] = some (.readReg 1 0x1084) := by decide
theorem test_decode_write_reg :
    decoded .request [0x19, 0, 0, 0, 0x10, 0x70, 0x12, 0x34, 0x56, 0x78] = some (.writeReg 0 0x1070 0x12345678) := by decide
theorem test_decode_read_block :
    decoded .request [0x1A, 0, 0, 0x15, 4, 0, 0, 1, 0, 0, 0, 20] = some (.readBlock 0 0x150400 1 20) := by decide
theorem test_decode_write_block :
    decoded .request [0x1B, 0, 0, 0x15, 4, 0, 0, 1, 0, 0, 0, 40] = some (.writeBlock 0 0x150400 1 40) := by decide
theorem test_decode_set_crc : decoded .request [0x1C, 0x01] = some (.setCrc true) := by decide
theorem test_decode_lock_acquire : decoded .request [0x1D, 1, 1, 0] = some (.lockAcquire 2) := by decide
theorem test_decode_lock_release : decoded .request [0x1E, 1, 1, 0] = some (.lockRelease 2) := by decide
theorem test_decode_no_request : decoded .request [0x05, 0x02] = none := by decide
theorem test_decode_bad_flag : decoded .request [0x1C, 0x02] = none := by decide
theorem test_decode_truncated : decoded .request [0x18, 0x00] = none := by decide
theorem test_decode_unclosed_sequence : decoded .request [0x03, 1, 0xCA] = none := by decide
theorem test_decode_unclosed_requester : decoded .request [0x1D, 1, 1] = none := by decide
theorem test_decode_bad_mark : decoded .request [0x1D, 2, 0] = none := by decide

/-! ## One step for each instruction. The state of 95_test_vectors part 3: reset, one requester, `C = 16` -/

/-- The reset state with an oracle and buffer 1 holding these bytes from offset 0 on. -/
def at0 (answers : List Answer) (bs : List Byte) : State :=
  { State.reset with oracle := answers, mem := Memory.writeRun [] 1 0 bs }

/-- One-byte `ok` reads. -/
def reads (bs : List Byte) : List Answer := bs.map (fun b => .good [b])

/-- The events and the results of an operation that answers a next state. -/
def told (x : Answered) : Option (List Event × List Result) :=
  match x with
  | .next t => some (t.h, t.results.map (fun y => y.2))
  | .fault _ => none
  | .refused _ => none

/-- The value of a projection in the next state. -/
def after {α : Type} (f : State → α) (x : Answered) : Option α :=
  match x with
  | .next t => some (f t)
  | .fault _ => none
  | .refused _ => none

/-- The refusal, if there is one. -/
def refusal (x : Answered) : Option Refusal :=
  match x with
  | .next _ => none
  | .fault _ => none
  | .refused e => some e

/-- 95 V-C2, 40_crc7 R101. -/
theorem test_crc7_byte : told (exec (.crc7Byte 0x7F 0xCF) (at0 [] [])) = some ([], [.crc 0x22]) := by decide +kernel
/-- 40_crc7 R102. -/
theorem test_crc7 : told (exec (.crc7 0x7F [0xCF, 0xFF, 0xFF, 0xFF]) (at0 [] [])) = some ([], [.crc 0x55]) := by decide +kernel
/-- 95 P8. -/
theorem test_crc7_tx : told (exec (.crc7Tx [0xCA, 0x00, 0x10, 0x84]) (at0 [] [])) = some ([], [.byte 0x00]) := by decide +kernel
/-- 40_crc7 R104. -/
theorem test_crc7_check_good :
    told (exec (.crc7Check [0xCF, 0xFF, 0xFF, 0xFF, 0xAA]) (at0 [] [])) = some ([], [.bit true]) := by decide +kernel
/-- 40_crc7 R104: bit 0 is part of the byte. -/
theorem test_crc7_check_bad :
    told (exec (.crc7Check [0xCF, 0xFF, 0xFF, 0xFF, 0xAB]) (at0 [] [])) = some ([], [.bit false]) := by decide +kernel

/-- 41_spi_command R121, R120. -/
theorem test_spi_cmd :
    told (exec (.spiCmd 0xCA 0x01001070 0 4 false) (at0 [.good []] [])) =
      some ([.w [0xCA, 0x00, 0x10, 0x70, 0x54] true], [.ok]) := by decide +kernel
/-- 41_spi_command R132. -/
theorem test_spi_cmd_unknown :
    told (exec (.spiCmd 0x00 0 0 0 false) (at0 [.good []] [])) = some ([], [.fail (.badCommand 0x00)]) := by decide +kernel
/-- 41_spi_command R126. -/
theorem test_cmd_dma_write :
    told (exec (.cmdDmaWrite 0x001070 0x100) (at0 [.good []] [])) =
      some ([.w [0xC1, 0x00, 0x10, 0x70, 0x01, 0x00, 0xEC] true], [.ok]) := by decide +kernel
/-- 41_spi_command R127. -/
theorem test_cmd_dma_read :
    told (exec (.cmdDmaRead 0x001070 0x100) (at0 [.good []] [])) =
      some ([.w [0xC2, 0x00, 0x10, 0x70, 0x01, 0x00, 0x70] true], [.ok]) := by decide +kernel
/-- 41_spi_command R130. -/
theorem test_cmd_internal_write :
    told (exec (.cmdInternalWrite true 0x0B 1) (at0 [.good []] [])) =
      some ([.w [0xC3, 0x80, 0x0B, 0x00, 0x00, 0x00, 0x01, 0x9A] true], [.ok]) := by decide +kernel
/-- 41_spi_command R122, both values of the flag. -/
theorem test_cmd_internal_read :
    told (exec (.cmdInternalRead true 0x10) (at0 [.good []] [])) =
      some ([.w [0xC4, 0x80, 0x10, 0x00, 0x64] true], [.ok]) ∧
    told (exec (.cmdInternalRead false 0x10) (at0 [.good []] [])) =
      some ([.w [0xC4, 0x00, 0x10, 0x00, 0xEE] true], [.ok]) := by decide +kernel
/-- 41_spi_command R123. -/
theorem test_cmd_terminate :
    told (exec .cmdTerminate (at0 [.good []] [])) = some ([.w [0xC5, 0x00, 0x00, 0x00, 0x9A] true], [.ok]) := by decide +kernel
/-- 41_spi_command R124. -/
theorem test_cmd_repeat :
    told (exec .cmdRepeat (at0 [.good []] [])) = some ([.w [0xC6, 0x00, 0x00, 0x00, 0x90] true], [.ok]) := by decide +kernel
/-- 41_spi_command R128. -/
theorem test_cmd_dma_ext_write :
    told (exec (.cmdDmaExtWrite 0x150400 16) (at0 [.good []] [])) =
      some ([.w [0xC7, 0x15, 0x04, 0x00, 0x00, 0x00, 0x10, 0xFE] true], [.ok]) := by decide +kernel
/-- 41_spi_command R129. -/
theorem test_cmd_dma_ext_read :
    told (exec (.cmdDmaExtRead 0x150400 16) (at0 [.good []] [])) =
      some ([.w [0xC8, 0x15, 0x04, 0x00, 0x00, 0x00, 0x10, 0x24] true], [.ok]) := by decide +kernel
/-- 41_spi_command R131, both modes. -/
theorem test_cmd_single_write :
    told (exec (.cmdSingleWrite 0x001070 0x12345678) (at0 [.good []] [])) =
      some ([.w [0xC9, 0x00, 0x10, 0x70, 0x12, 0x34, 0x56, 0x78, 0xDE] true], [.ok]) ∧
    told (exec (.cmdSingleWrite 0x001070 0x12345678) { at0 [.good []] [] with crcOff := true }) =
      some ([.w [0xC9, 0x00, 0x10, 0x70, 0x12, 0x34, 0x56, 0x78] true], [.ok]) := by decide +kernel
/-- 41_spi_command R121: a CRC byte of zero; and a transport error. -/
theorem test_cmd_single_read :
    told (exec (.cmdSingleRead 0x001084) (at0 [.good []] [])) =
      some ([.w [0xCA, 0x00, 0x10, 0x84, 0x00] true], [.ok]) ∧
    told (exec (.cmdSingleRead 0x001084) (at0 [.err] [])) =
      some ([.w [0xCA, 0x00, 0x10, 0x84, 0x00] false], [.fail (.transportError 0)]) := by decide +kernel
/-- 41_spi_command R125. -/
theorem test_cmd_reset :
    told (exec .cmdReset (at0 [.good []] [])) = some ([.w [0xCF, 0xFF, 0xFF, 0xFF, 0xAA] true], [.ok]) := by decide +kernel

/-- 41_spi_command R134. -/
theorem test_spi_cmd_rsp :
    told (exec (.spiCmdRsp 0xCA) (at0 (reads [0xFF, 0xCA, 0x00]) [])) =
      some (readsOf [0xFF, 0xCA, 0x00], [.ok]) := by decide +kernel
/-- 41_spi_command R134: eleven echo reads, no status read. -/
theorem test_spi_cmd_rsp_timeout :
    told (exec (.spiCmdRsp 0xCA) (at0 (reads (List.replicate 12 0)) [])) =
      some (readsOf (List.replicate 11 0), [.fail (.echoTimeout 0xCA 0)]) := by decide +kernel
/-- 41_spi_command R134, phase 1: the eleventh read may match. -/
theorem test_rsp_echo :
    told (exec (.rspEcho 0xCA) (at0 (reads (List.replicate 10 0 ++ [0xCA])) [])) =
      some (readsOf (List.replicate 10 0 ++ [0xCA]), [.ok]) := by decide +kernel
/-- 41_spi_command R134, phase 2. -/
theorem test_rsp_status :
    told (exec .rspStatus (at0 (reads [0x01, 0x00]) [])) = some (readsOf [0x01, 0x00], [.ok]) := by decide +kernel

/-- 30_encoding R84. -/
theorem test_data_hdr_first : told (exec .dataHdrFirst (at0 [.good []] [])) = some ([.w [0xF1] true], [.ok]) := by decide +kernel
/-- 30_encoding R84. -/
theorem test_data_hdr_middle : told (exec .dataHdrMiddle (at0 [.good []] [])) = some ([.w [0xF2] true], [.ok]) := by decide +kernel
/-- 30_encoding R84. -/
theorem test_data_hdr_last : told (exec .dataHdrLast (at0 [.good []] [])) = some ([.w [0xF3] true], [.ok]) := by decide +kernel
/-- 42_spi_data R150: the low nibble is ignored. -/
theorem test_data_rsp_hdr :
    told (exec (.dataRspHdr 0) (at0 (reads [0xEF, 0xF7]) [])) = some (readsOf [0xEF, 0xF7], [.ok]) := by decide +kernel
/-- 42_spi_data R150. -/
theorem test_spi_data_read :
    told (exec (.spiDataRead 1 0 4 false) (at0 [.good [0xF3], .good [0x78, 0x56, 0x34, 0x12], .good [0xA1, 0xB2]] [])) =
      some ([.r 1 (some [0xF3]), .r 4 (some [0x78, 0x56, 0x34, 0x12]), .r 2 (some [0xA1, 0xB2])], [.ok]) := by decide +kernel
/-- 42_spi_data R150: the bytes land at `off`. -/
theorem test_spi_data_read_buffer :
    after (fun t => t.mem.known? 1 4 2)
      (exec (.spiDataRead 1 2 4 true) (at0 [.good [0xF3], .good [0x78, 0x56, 0x34, 0x12]] [])) =
      some (some [0x78, 0x56, 0x34, 0x12]) := by decide +kernel
/-- 20_memory R51, 00_scope R8: an offset has no bound; and 70_reset R258: a buffer another requester's block operation uses, far
beyond the bytes it moves. -/
theorem test_spi_data_read_far :
    after (fun t => t.mem.known? 1 2 0xFFFFFFFF)
      (exec (.spiDataRead 1 0xFFFFFFFF 2 true) (at0 [.good [0xF3], .good [0x78, 0x56]] [])) = some (some [0x78, 0x56]) ∧
    refusal (exec (.spiDataRead 1 0xFFFFFFFF 2 true) { at0 [] [] with
      cfg := { defaultCfg with nreq := 2 }
      lock := .held 0
      seqs := [(1, .block ⟨true, 1, 0x150400, 20, 1⟩)] }) = some .bufferInUse := by decide +kernel
/-- 42_spi_data R151, both modes. -/
theorem test_spi_data_write :
    told (exec (.spiDataWrite 1 0 3) (at0 [.good [], .good [], .good []] [0x0A, 0x0B, 0x0C])) =
      some ([.w [0xF3] true, .w [0x0A, 0x0B, 0x0C] true, .w [0x00, 0x00] true], [.ok]) ∧
    told (exec (.spiDataWrite 1 0 3) { at0 [.good [], .good []] [0x0A, 0x0B, 0x0C] with crcOff := true }) =
      some ([.w [0xF3] true, .w [0x0A, 0x0B, 0x0C] true], [.ok]) := by decide +kernel
/-- 95 V-D22: the second write fails, no trailer. -/
theorem test_spi_data_write_error :
    told (exec (.spiDataWrite 1 0 3) (at0 [.good [], .err, .good []] [0x01, 0x02, 0x03])) =
      some ([.w [0xF3] true, .w [0x01, 0x02, 0x03] false], [.fail (.transportError 1)]) := by decide +kernel

/-- 95 V-X1. -/
theorem test_spi_reset :
    told (exec .spiReset (at0 (.good [] :: reads [0xCF, 0x00]) [])) =
      some (.w [0xCF, 0xFF, 0xFF, 0xFF, 0xAA] true :: readsOf [0xCF, 0x00], [.done]) := by decide +kernel
/-- 95 V-X4: the response matcher runs also after a failed frame. -/
theorem test_spi_reset_write_fails :
    told (exec .spiReset (at0 [.err, .err] [])) =
      some ([.w [0xCF, 0xFF, 0xFF, 0xFF, 0xAA] false, .r 1 none], [.done]) := by decide +kernel
/-- 95 V-X7: the last clockless read address, no trailer, least significant byte first. -/
theorem test_xreg_rd_clockless :
    told (exec (.xregRd 0xFF) (at0 (.good [] :: reads [0xC4, 0x00, 0xF0] ++ [.good [0xAA, 0xBB, 0xCC, 0xDD]]) [])) =
      some (.w [0xC4, 0x80, 0xFF, 0x00, 0x2E] true :: readsOf [0xC4, 0x00, 0xF0] ++ [.r 4 (some [0xAA, 0xBB, 0xCC, 0xDD])],
        [.okWord 0xDDCCBBAA]) := by decide +kernel
/-- 95 V-X8: the first address above it. -/
theorem test_xreg_rd :
    told (exec (.xregRd 0x100)
        (at0 (.good [] :: reads [0xCA, 0x00, 0xF0] ++ [.good [0xAA, 0xBB, 0xCC, 0xDD], .good [0, 0]]) [])) =
      some (.w [0xCA, 0x00, 0x01, 0x00, 0xAE] true :: readsOf [0xCA, 0x00, 0xF0] ++
        [.r 4 (some [0xAA, 0xBB, 0xCC, 0xDD]), .r 2 (some [0, 0])], [.okWord 0xDDCCBBAA]) := by decide +kernel
/-- 95 V-X11, V-X10: the two sides of the write limit. -/
theorem test_xreg_wr :
    told (exec (.xregWr 0x30 0xA5A5A5A5) (at0 (.good [] :: reads [0xC3, 0x00]) [])) =
      some (.w [0xC3, 0x80, 0x30, 0xA5, 0xA5, 0xA5, 0xA5, 0x0C] true :: readsOf [0xC3, 0x00], [.ok]) ∧
    told (exec (.xregWr 0x31 1) (at0 (.good [] :: reads [0xC9, 0x00]) [])) =
      some (.w [0xC9, 0x00, 0x00, 0x31, 0x00, 0x00, 0x00, 0x01, 0x02] true :: readsOf [0xC9, 0x00], [.ok]) := by decide +kernel
/-- 95 V-X14. -/
theorem test_xblk_rd :
    told (exec (.xblkRd 0x150400 1 0 4)
        (at0 (.good [] :: reads [0xC8, 0x00, 0xF0] ++ [.good [0xDE, 0xAD, 0xBE, 0xEF], .good [0, 0]]) [])) =
      some (.w [0xC8, 0x15, 0x04, 0x00, 0x00, 0x00, 0x04, 0x5E] true :: readsOf [0xC8, 0x00, 0xF0] ++
        [.r 4 (some [0xDE, 0xAD, 0xBE, 0xEF]), .r 2 (some [0, 0])], [.ok]) := by decide +kernel
/-- 43_transactions R174 with two bytes. -/
theorem test_xblk_wr :
    told (exec (.xblkWr 0x150400 1 0 2) (at0 (.good [] :: reads [0xC7, 0x00] ++ [.good [], .good [], .good []]) [0, 1])) =
      some (.w [0xC7, 0x15, 0x04, 0x00, 0x00, 0x00, 0x02, 0xE8] true ::
        readsOf [0xC7, 0x00] ++ [.w [0xF3] true, .w [0, 1] true, .w [0, 0] true], [.ok]) := by decide +kernel
/-- 44_bus R191. -/
theorem test_read_reg :
    told (exec (.readReg 0 0x1084)
        (at0 (.good [] :: reads [0xCA, 0x00, 0xF3] ++ [.good [0x78, 0x56, 0x34, 0x12], .good [0, 0]]) [])) =
      some ([.acq 0, .w [0xCA, 0x00, 0x10, 0x84, 0x00] true] ++ readsOf [0xCA, 0x00, 0xF3] ++
        [.r 4 (some [0x78, 0x56, 0x34, 0x12]), .r 2 (some [0, 0]), .rel 0], [.codeWord 0 (some 0x12345678)]) := by decide +kernel
/-- 95 P1. -/
theorem test_write_reg :
    told (exec (.writeReg 0 0x1070 0x12345678) (at0 (.good [] :: reads [0xC9, 0x00]) [])) =
      some ([.acq 0, .w [0xC9, 0x00, 0x10, 0x70, 0x12, 0x34, 0x56, 0x78, 0xDE] true] ++ readsOf [0xC9, 0x00] ++ [.rel 0],
        [.code 0]) := by decide +kernel
/-- 95 section 2.7, the first chunk of `READ_BLOCK(0, 0x150400, b, 20)`: no result yet, the lock free, the next chunk's position. -/
theorem test_read_block :
    told (exec (.readBlock 0 0x150400 1 20)
        (at0 (.good [] :: reads [0xC8, 0x00, 0xF0] ++ [.good (List.replicate 16 7), .good [0, 0]]) [])) =
      some ([.acq 0, .w [0xC8, 0x15, 0x04, 0x00, 0x00, 0x00, 0x10, 0x24] true] ++ readsOf [0xC8, 0x00, 0xF0] ++
        [.r 16 (some (List.replicate 16 7)), .r 2 (some [0, 0]), .rel 0], []) ∧
    after (fun t => (t.lock, t.seqs)) (exec (.readBlock 0 0x150400 1 20)
        (at0 (.good [] :: reads [0xC8, 0x00, 0xF0] ++ [.good (List.replicate 16 7), .good [0, 0]]) [])) =
      some (.free, [(0, .block ⟨false, 1, 0x150400, 20, 1⟩)]) := by decide +kernel
/-- 95 P3, the last chunk (8 bytes at `0x150420`). -/
theorem test_write_block :
    told (exec (.writeBlock 0 0x150420 1 8)
        (at0 (.good [] :: reads [0xC7, 0x00] ++ [.good [], .good [], .good []])
          [0x20, 0x21, 0x22, 0x23, 0x24, 0x25, 0x26, 0x27])) =
      some ([.acq 0, .w [0xC7, 0x15, 0x04, 0x20, 0x00, 0x00, 0x08, 0x9C] true] ++ readsOf [0xC7, 0x00] ++
        [.w [0xF3] true, .w [0x20, 0x21, 0x22, 0x23, 0x24, 0x25, 0x26, 0x27] true, .w [0, 0] true, .rel 0], [.code 0]) := by decide +kernel
/-- 44_bus R198. -/
theorem test_set_crc :
    after (fun t => (t.crcOff, t.h)) (exec (.setCrc true) (at0 [] [])) = some (true, []) := by decide +kernel
/-- 44_bus R190's example: taken, then waited for. -/
theorem test_lock_acquire :
    after (fun t => (t.lock, t.h)) (exec (.lockAcquire 0) (at0 [] [])) = some (.held 0, [.acq 0]) ∧
    after (fun t => (t.lock, t.h, t.seqs))
        (exec (.lockAcquire 1) { at0 [] [] with cfg := { defaultCfg with nreq := 2 }, lock := .held 0 }) =
      some (.held 0, [], [(1, .waiting (.lockAcquire 1))]) := by decide +kernel
/-- 44_bus R190: the holder's release, and a foreign one. -/
theorem test_lock_release :
    after (fun t => (t.lock, t.h)) (exec (.lockRelease 0) { at0 [] [] with lock := .held 0 }) = some (.free, [.rel 0]) ∧
    refusal (exec (.lockRelease 1) { at0 [] [] with cfg := { defaultCfg with nreq := 2 }, lock := .held 0 }) =
      some .releaseByNonHolder := by decide +kernel
/-- 44_bus R194: a failed read ends with the code, and its region holds no value. -/
theorem test_read_block_fails :
    after (fun t => (t.results, t.mem, t.seqs))
      (exec (.readBlock 0 0x150400 1 20) { at0 (List.replicate 30 .err) [1, 2, 3] with mem := [(bufKey 1 19, 5), (bufKey 1 20, 6)] }) =
      some ([(0, .code 0xFA)], [(bufKey 1 20, 6)], []) := by decide +kernel
/-- The step runs what `withFetchWord` places: 95 P1 as a table word. -/
theorem test_step_write_reg :
    told (step ((at0 (.good [] :: reads [0xC9, 0x00]) []).withFetchWord 80 0x78563412701000000019)) =
      some ([.acq 0, .w [0xC9, 0x00, 0x10, 0x70, 0x12, 0x34, 0x56, 0x78, 0xDE] true] ++ readsOf [0xC9, 0x00] ++ [.rel 0],
        [.code 0]) := by decide +kernel
/-- 95 P7, the order `A Q`: requester 1's operation falls between two chunks of requester 0's. -/
theorem test_step_between_chunks :
    after (fun t => (t.results, t.seqs))
      (step { at0 (.good [] :: reads [0xC9, 0x00]) [] with
        cfg := { defaultCfg with nreq := 2 }
        seqs := [(0, .block ⟨true, 1, 0x150400, 20, 1⟩)]
        port := [⟨1, .request, [0x19, 1, 0, 0, 0, 0, 0x10, 0x88, 0, 0, 0, 0]⟩]
        sched := [1] }) =
      some ([(1, .code 0)], [(0, .block ⟨true, 1, 0x150400, 20, 1⟩)]) := by decide +kernel

/-! ## Witnesses: a state and operands that meet the hypotheses of each statement, at the ends of their ranges -/

/-- A small configuration: two retries, two attempts, frames of 4 bytes, chunks of 6. -/
def smallCfg : Cfg := { defaultCfg with rspRetry := 2, opRetry := 2, dataPktSz := 4, maxTrxSz := 14, trxOverhead := 8 }

/-- The reset state under it, with these answers, and buffer 1 holding ten bytes. -/
def small (answers : List Answer) : State :=
  { State.reset with
    cfg := smallCfg
    oracle := answers
    mem := Memory.writeRun [] 1 0 [1, 2, 3, 4, 5, 6, 7, 8, 9, 10]
    bufLens := [(1, 10), (2, 10)] }

/-- Two requesters, the lock held by requester 0. -/
def held : State := { small [] with cfg := { smallCfg with nreq := 2 }, lock := .held 0, h := [.acq 0] }

/-- Requester 0 waits for itself: it holds the lock, and its `READ_REG` waits for the lock. -/
def deadlocked : State := { held with seqs := [(0, .waiting (.readReg 0 0))], sched := [0] }

/-- Requester 1 stands between two chunks of a read into buffer 1. -/
def between : State :=
  { small [] with cfg := { smallCfg with nreq := 2 }, seqs := [(1, .block ⟨false, 1, 0, 10, 1⟩)], sched := [1] }

/-- Read frames of 4 and 2 bytes, the first after two bytes that are no header. -/
def twoFrames (d : List Byte) : List SlaveFrame :=
  [⟨[0x00, 0xEF], 0xF1, d.take 4, [9, 9]⟩, ⟨[], 0xFF, d.drop 4, [0, 0]⟩]

/-- `OP_RETRY = 0`. -/
def zeroRetry (answers : List Answer) : State := { small answers with cfg := { smallCfg with opRetry := 0 } }

/-- 43_transactions R175, 10_state R27: with `OP_RETRY = 0` the 4 bits of `ATT` are 0 again after the 16th failure (log entry 7). -/
theorem test_write_reg_zero_retry :
    after (fun t => (t.results, t.att, t.lock, t.oracle, t.h.length))
        (exec (.writeReg 0 0x30 1) (zeroRetry (List.replicate 50 .err))) =
      some ([(0, .code 0xFA)], 0, .free, [.err, .err], 50) := by decide +kernel

theorem wit_encode_then_decode :
    defaultOpc.wf = true ∧ decoded (Instr.lockRelease 300).space (encode defaultOpc (.lockRelease 300) ++ [0xAB]) =
      some (.lockRelease 300) := by decide
theorem wit_decoded_words_reencode :
    decoded .request [0x1E, 0x01, 0x00, 0x00, 0x07] = some (.lockRelease 1) ∧
    decoded .command [0xCA, 0xFF, 0xFF, 0xFF, 0x07] = some (.cmdSingleRead 0xFFFFFF) ∧
    decoded .command [0xC4, 0xFF, 0xFF] = some (.cmdInternalRead true 0x7FFF) := by decide
theorem wit_reserved_words :
    (0xCB : Byte) ∉ defaultOpc.values ∧ (0x00 : Byte) ∉ defaultOpc.values ∧
    (∀ sel : Select, sel.code ≠ 0x1F) ∧ (∀ sel : Select, sel.code ≠ 0x00) ∧ (0xEF : Byte).extractLsb' 4 4 ≠ 0xF ∧
    (small []).cfg.wf = true ∧ { small [] with sched := [0] }.seqOf 0 = none := by
  refine ⟨by decide, by decide, ?_, ?_, by decide, by decide, by decide⟩ <;> intro sel <;> cases sel <;> decide
theorem wit_operand_assembly :
    (0x01001070 : Word).extractLsb' 0 24 = (0x00001070 : Word).extractLsb' 0 24 ∧
    (0xFF000010 : Word).extractLsb' 0 24 = (0x00000010 : Word).extractLsb' 0 24 := by decide
theorem wit_generator :
    let s := at0 [] []
    s.admits s.issuer ∧ s.cfg.crc7Table = defaultTable ∧ s.cfg.crc7Seed = 0x7F ∧ 1 ≤ ([0xFE] : List Byte).length ∧
    ([1, 2] : List Byte).length = ([3, 4] : List Byte).length := by decide +kernel
theorem wit_wire_commands :
    let s := small [.good []]
    (Instr.cmdSingleRead 0xFFFFFF).space = .command ∧ s.onBus ∧ s.oracle = .good [] :: [] := by decide +kernel
theorem wit_spi_cmd :
    let s := small [.err]
    s.onBus ∧ s.oracle = .err :: [] ∧ held.onBus := by decide +kernel
theorem wit_crc_mode :
    let s := small [.good []]
    s.onBus ∧ s.oracle = .good [] :: [] := by decide +kernel
theorem wit_unknown_command :
    let s := small []
    s.onBus ∧ (0xCB : Byte) ∉ s.cfg.opc.values ∧ (0xFF : Byte) ∉ s.cfg.opc.values := by decide +kernel
theorem wit_response_matched :
    let s := small (scriptOf (readsOf ([1, 0] ++ [0xCA] ++ [0xCA, 2] ++ [0])))
    s.onBus ∧ ([1, 0] : List Byte).length ≤ s.cfg.rspRetry ∧ (∀ b ∈ ([1, 0] : List Byte), b ≠ 0xCA) ∧
    ([0xCA, 2] : List Byte).length ≤ s.cfg.rspRetry ∧ (∀ b ∈ ([0xCA, 2] : List Byte), b ≠ 0) ∧
    s.oracle = scriptOf (readsOf ([1, 0] ++ [0xCA] ++ [0xCA, 2] ++ [0])) ++ [] := by decide +kernel
theorem wit_response_fails_echo :
    let s := small (scriptOf (readsOf ([1, 0] ++ [2])))
    s.onBus ∧ (∀ b ∈ ([1, 0] : List Byte), b ≠ 0xCA) ∧ ([1, 0] : List Byte).length = s.cfg.rspRetry ∧ (2 : Byte) ≠ 0xCA ∧
    s.oracle = scriptOf (readsOf ([1, 0] ++ [2])) ++ [] := by decide +kernel
theorem wit_response_fails_status :
    let s := small (scriptOf (readsOf ([1, 0] ++ [0xCA] ++ [1, 2] ++ [3])))
    s.onBus ∧ (∀ b ∈ ([1, 0] : List Byte), b ≠ 0xCA) ∧ ([1, 0] : List Byte).length ≤ s.cfg.rspRetry ∧
    ([1, 2] : List Byte).length = s.cfg.rspRetry ∧ (∀ b ∈ ([1, 2] : List Byte), b ≠ 0) ∧ (3 : Byte) ≠ 0 ∧
    s.oracle = scriptOf (readsOf ([1, 0] ++ [0xCA] ++ [1, 2] ++ [3])) ++ [] := by decide +kernel
theorem wit_response_fails_transport :
    let s := small (scriptOf (readsOf [1, 0]) ++ [.err])
    s.onBus ∧ (∀ b ∈ ([1, 0] : List Byte), b ≠ 0xCA) ∧ ([1, 0] : List Byte).length ≤ s.cfg.rspRetry ∧
    s.oracle = scriptOf (readsOf [1, 0]) ++ .err :: [] := by decide +kernel
theorem wit_response_fails_transport_status :
    let s := small (scriptOf (readsOf ([1, 0] ++ [0xCA] ++ [1, 2])) ++ [.err])
    s.onBus ∧ (∀ b ∈ ([1, 0] : List Byte), b ≠ 0xCA) ∧ ([1, 0] : List Byte).length ≤ s.cfg.rspRetry ∧
    ([1, 2] : List Byte).length ≤ s.cfg.rspRetry ∧ (∀ b ∈ ([1, 2] : List Byte), b ≠ 0) ∧
    s.oracle = scriptOf (readsOf ([1, 0] ++ [0xCA] ++ [1, 2])) ++ .err :: [] := by decide +kernel
theorem wit_response_phase_echo :
    let s := small (scriptOf (readsOf ([1, 2] ++ [0xCA])))
    s.onBus ∧ ([1, 2] : List Byte).length ≤ s.cfg.rspRetry ∧ (∀ b ∈ ([1, 2] : List Byte), b ≠ 0xCA) ∧
    s.oracle = scriptOf (readsOf ([1, 2] ++ [0xCA])) ++ [] := by decide +kernel
theorem wit_response_phase_status :
    let s := small (scriptOf (readsOf ([1, 2] ++ [0])))
    s.onBus ∧ ([1, 2] : List Byte).length ≤ s.cfg.rspRetry ∧ (∀ b ∈ ([1, 2] : List Byte), b ≠ 0) ∧
    s.oracle = scriptOf (readsOf ([1, 2] ++ [0])) ++ [] := by decide +kernel
theorem wit_response_bounded : (small []).onBus := by decide +kernel
theorem wit_write_headers :
    let s := small [.good []]
    s.onBus ∧ s.oracle = .good [] :: [] := by decide +kernel
theorem wit_read_header :
    let s := small (scriptOf (readsOf ([0, 0xEF] ++ [0xF0])))
    s.onBus ∧ (∀ e ∈ ([0, 0xEF] : List Byte), e.extractLsb' 4 4 ≠ 0xF) ∧ ([0, 0xEF] : List Byte).length ≤ s.cfg.rspRetry ∧
    (0xF0 : Byte).extractLsb' 4 4 = 0xF ∧ s.oracle = scriptOf (readsOf ([0, 0xEF] ++ [0xF0])) ++ [] := by decide +kernel
theorem wit_read_header_timeout :
    let s := small (scriptOf (readsOf ([0, 0xEF] ++ [0x0F])))
    s.onBus ∧ (∀ e ∈ ([0, 0xEF] : List Byte), e.extractLsb' 4 4 ≠ 0xF) ∧ ([0, 0xEF] : List Byte).length = s.cfg.rspRetry ∧
    (0x0F : Byte).extractLsb' 4 4 ≠ 0xF ∧ s.oracle = scriptOf (readsOf ([0, 0xEF] ++ [0x0F])) ++ [] := by decide +kernel
/-- One frame that is just full, at the end of the buffer. -/
theorem wit_data_write :
    let s := small (writeAnswers smallCfg false 4)
    s.onBus ∧ s.bufferReady s.issuer 1 6 (4 : BitVec 16).toNat false ∧
    s.oracle = writeAnswers s.cfg s.crcOff (4 : BitVec 16).toNat ++ [] ∧ s.oracle.length = 3 := by decide +kernel
/-- One byte more: two frames. -/
theorem wit_data_write_two_frames :
    let s := small (writeAnswers smallCfg false 5)
    s.onBus ∧ s.bufferReady s.issuer 1 5 (5 : BitVec 16).toNat false ∧
    s.oracle = writeAnswers s.cfg s.crcOff (5 : BitVec 16).toNat ++ [] ∧ s.oracle.length = 6 := by decide +kernel
theorem wit_data_write_error :
    let s := small (List.replicate 5 (.good []) ++ [.err])
    s.onBus ∧ s.bufferReady s.issuer 1 5 (5 : BitVec 16).toNat false ∧
    5 < (writeAnswers s.cfg s.crcOff (5 : BitVec 16).toNat).length ∧
    s.oracle = List.replicate 5 (.good []) ++ .err :: [] := by decide +kernel
theorem wit_data_read :
    let fs := twoFrames [1, 2, 3, 4, 5, 6]
    let s := small (scriptOf (readPhase true fs))
    s.onBus ∧ s.bufferReady s.issuer 1 4 (6 : BitVec 16).toNat true ∧
    ([1, 2, 3, 4, 5, 6] : List Byte).length = (6 : BitVec 16).toNat ∧
    fs.map (fun f => f.body) = piecesOf s.cfg.dataPktSz 6 [1, 2, 3, 4, 5, 6] ∧ (∀ f ∈ fs, f.accepted s.cfg.rspRetry) ∧
    s.oracle = scriptOf (readPhase (!s.crcOff && !false) fs) ++ [] := by decide +kernel
theorem wit_data_read_ends :
    let s := small []
    s.onBus ∧ s.bufferReady s.issuer 1 4 (6 : BitVec 16).toNat true := by decide +kernel
theorem wit_tiling_frames :
    let bs : List Byte := [5, 6, 7, 8, 9]
    let s := small (writeAnswers smallCfg false 5)
    let t := small (readAnswers 4 true bs)
    s.onBus ∧ bs.length = (5 : BitVec 16).toNat ∧ s.bufferReady s.issuer 1 4 (5 : BitVec 16).toNat false ∧
    s.mem.known? 1 (5 : BitVec 16).toNat 4 = some bs ∧
    s.oracle = writeAnswers s.cfg s.crcOff (5 : BitVec 16).toNat ++ [] ∧
    t.onBus ∧ t.bufferReady t.issuer 1 5 (5 : BitVec 16).toNat true ∧
    t.oracle = readAnswers t.cfg.dataPktSz (!t.crcOff && !false) bs ++ [] := by decide +kernel
/-- Ten bytes in chunks of six, the second chunk one frame that is just full. -/
theorem wit_tiling_chunks :
    let bs : List Byte := [1, 2, 3, 4, 5, 6, 7, 8, 9, 10]
    let w := (List.range 2).map fun k => commandAnswers 0xC7 ++ writeAnswers smallCfg false (sliceOf 6 bs k).length
    let r := (List.range 2).map fun k => commandAnswers 0xC8 ++ readAnswers 4 true (sliceOf 6 bs k)
    let s := { small w.flatten with sched := [0] }
    let t := { small r.flatten with sched := [0] }
    s.admits 0 ∧ s.lock = .free ∧ s.cfg.success = 0 ∧ bs.length = (10 : Word).toNat ∧
    s.sched = List.replicate (pieceCount (chunkSize s.cfg) bs.length - 1) 0 ++ [] ∧
    s.bufferReady 0 1 0 (10 : Word).toNat false ∧ s.mem.known? 1 (10 : Word).toNat 0 = some bs ∧
    s.oracle = ((List.range (pieceCount (chunkSize s.cfg) bs.length)).map fun k => commandAnswers s.cfg.opc.dmaExtWrite ++
      writeAnswers s.cfg s.crcOff (sliceOf (chunkSize s.cfg) bs k).length).flatten ++ [] ∧
    t.sched = s.sched ∧ t.bufferReady 0 1 0 (10 : Word).toNat true ∧
    t.oracle = ((List.range (pieceCount (chunkSize t.cfg) bs.length)).map fun k => commandAnswers t.cfg.opc.dmaExtRead ++
      readAnswers t.cfg.dataPktSz (!t.crcOff) (sliceOf (chunkSize t.cfg) bs k)).flatten ++ [] := by decide +kernel
theorem wit_size_zero :
    let s := small []
    s.onBus ∧ s.admits 0 ∧ s.cfg.wf = true ∧ 1 ≤ (1 : Word).toNat := by decide +kernel
theorem wit_buffer_too_short :
    let s := small []
    s.onBus ∧ (4 : BitVec 16) ≠ 0 ∧ s.bufShort 1 (7 + (4 : BitVec 16).toNat) = true ∧ s.admits 0 ∧ (11 : Word) ≠ 0 ∧
    s.bufShort 1 (11 : Word).toNat = true := by decide +kernel
theorem wit_buffer_in_use :
    between.admits 0 ∧ (10 : Word) ≠ 0 ∧ between.bufShort 1 (10 : Word).toNat = false ∧ (1 : Nat) ≠ 0 ∧
    between.seqOf 1 = some (.block ⟨false, 1, 0, 10, 1⟩) ∧ (SeqPos.block ⟨false, 1, 0, 10, 1⟩).block? = some ⟨false, 1, 0, 10, 1⟩ ∧
    (10 : Word) ≠ 0 := by decide +kernel
/-- The last byte that requester 1's block operation uses, and the first after it, in a buffer declared longer. -/
theorem wit_buffer_in_use_direct :
    let s := { between with lock := .held 0, bufLens := [(1, 11)] }
    s.onBus ∧ (1 : BitVec 16) ≠ 0 ∧ s.bufShort 1 (9 + (1 : BitVec 16).toNat) = false ∧
    s.bufShort 1 (10 + (1 : BitVec 16).toNat) = false ∧ (1 : Nat) ≠ s.issuer ∧
    s.seqOf 1 = some (.block ⟨false, 1, 0, 10, 1⟩) := by decide +kernel
theorem wit_bus_reset : (small []).onBus ∧ held.onBus := by decide +kernel
/-- The last clockless address. -/
theorem wit_register_read :
    let fs : List SlaveFrame := [⟨[], 0xF0, [1, 2, 3, 4], [0, 0]⟩]
    let s := small (scriptOf (readRegEvents smallCfg false 0xFF fs))
    s.onBus ∧ fs.map (fun f => f.body) = piecesOf s.cfg.dataPktSz 4 [1, 2, 3, 4] ∧
    (∀ f ∈ fs, f.accepted s.cfg.rspRetry) ∧ s.oracle = scriptOf (readRegEvents s.cfg s.crcOff 0xFF fs) ++ [] := by
  decide +kernel
/-- The first address above it. -/
theorem wit_register_read_above :
    let fs : List SlaveFrame := [⟨[], 0xF0, [1, 2, 3, 4], [0, 0]⟩]
    let s := small (scriptOf (readRegEvents smallCfg false 0x100 fs))
    s.onBus ∧ fs.map (fun f => f.body) = piecesOf s.cfg.dataPktSz 4 [1, 2, 3, 4] ∧
    (∀ f ∈ fs, f.accepted s.cfg.rspRetry) ∧ s.oracle = scriptOf (readRegEvents s.cfg s.crcOff 0x100 fs) ++ [] := by
  decide +kernel
theorem wit_register_write :
    let s := small (scriptOf (writeRegEvents smallCfg false 0x30 1))
    let t := small (scriptOf (writeRegEvents smallCfg false 0x31 1))
    s.onBus ∧ s.oracle = scriptOf (writeRegEvents s.cfg s.crcOff 0x30 1) ++ [] ∧
    t.onBus ∧ t.oracle = scriptOf (writeRegEvents t.cfg t.crcOff 0x31 1) ++ [] := by decide +kernel
theorem wit_block_read :
    let fs := twoFrames [1, 2, 3, 4, 5, 6]
    let s := small (scriptOf (blockReadEvents smallCfg false 0xFFFFFF 6 fs))
    s.onBus ∧ s.bufferReady s.issuer 1 4 (6 : BitVec 16).toNat true ∧
    fs.map (fun f => f.body) = piecesOf s.cfg.dataPktSz 6 [1, 2, 3, 4, 5, 6] ∧ (∀ f ∈ fs, f.accepted s.cfg.rspRetry) ∧
    s.oracle = scriptOf (blockReadEvents s.cfg s.crcOff 0xFFFFFF (6 : BitVec 16).toNat fs) ++ [] := by decide +kernel
theorem wit_block_write :
    let s := small (commandAnswers smallCfg.opc.dmaExtWrite ++ writeAnswers smallCfg false 6)
    s.onBus ∧ s.bufferReady s.issuer 1 4 (6 : BitVec 16).toNat false ∧
    s.oracle = commandAnswers s.cfg.opc.dmaExtWrite ++ writeAnswers s.cfg s.crcOff (6 : BitVec 16).toNat ++ [] := by
  decide +kernel
theorem wit_transactions :
    (small []).onBus ∧ Transaction (small []) (.xregRd 0xFF) (readRegBody smallCfg 0xFF) 12 ∧
    Transaction (small []) (.xregWr 0x31 1) (writeRegBody smallCfg 0x31 1) 7 ∧
    Transaction (small []) (.xblkRd 0 1 4 6) (blockBody smallCfg.opc.dmaExtRead 0 6) 17 ∧
    Transaction (small []) (.xblkWr 0 1 4 6) (blockBody smallCfg.opc.dmaExtWrite 0 6) 13 :=
  ⟨by decide +kernel, .regRead 0xFF, .regWrite 0x31 1, .blockRead 0 1 4 6 (by decide +kernel),
    .blockWrite 0 1 4 6 (by decide +kernel)⟩
/-- A state with a response that fails, and a transaction ready in it. -/
def unanswered (answers : List Answer) : State := small (.good [] :: answers)
theorem unanswered_ready (answers : List Answer) :
    Transaction (unanswered answers) (.xblkRd 0 1 4 6) (blockBody smallCfg.opc.dmaExtRead 0 6) (blockCalls smallCfg false 6) :=
  Transaction.blockRead (s := unanswered answers) 0 1 4 6 ⟨by decide, rfl, rfl⟩
/-- The four ways a response fails, at the bounds: the last retry of each phase. -/
theorem wit_failed_response :
    let cmd := (blockBody smallCfg.opc.dmaExtRead 0 6).headD 0
    let s1 := unanswered (scriptOf (readsOf ([0, 0] ++ [0])))
    let s2 := unanswered (scriptOf (readsOf ([0, 0] ++ [cmd] ++ [1, 2] ++ [3])))
    let s3 := unanswered (scriptOf (readsOf [0, 0]) ++ [.err])
    let s4 := unanswered (scriptOf (readsOf ([0, 0] ++ [cmd] ++ [1, 2])) ++ [.err])
    s1.onBus ∧ s2.onBus ∧ s3.onBus ∧ s4.onBus ∧ (∀ b ∈ ([0, 0] : List Byte), b ≠ cmd) ∧ (0 : Byte) ≠ cmd ∧
    (∀ b ∈ ([1, 2] : List Byte), b ≠ 0) ∧ (3 : Byte) ≠ 0 ∧
    ([0, 0] : List Byte).length = smallCfg.rspRetry ∧ ([1, 2] : List Byte).length = smallCfg.rspRetry ∧
    s1.oracle = .good [] :: scriptOf (readsOf ([0, 0] ++ [0])) ++ [] ∧
    s2.oracle = .good [] :: scriptOf (readsOf ([0, 0] ++ [cmd] ++ [1, 2] ++ [3])) ++ [] ∧
    s3.oracle = .good [] :: scriptOf (readsOf [0, 0]) ++ .err :: [] ∧
    s4.oracle = .good [] :: scriptOf (readsOf ([0, 0] ++ [cmd] ++ [1, 2])) ++ .err :: [] := by decide +kernel
/-- The last attempt may still succeed. -/
theorem wit_register_operations_write :
    let s := small (List.replicate (3 * 1) .err ++ scriptOf (writeRegEvents smallCfg false 0x30 1))
    s.admits 0 ∧ s.lock = .free ∧ 1 < attempts s.cfg ∧
    s.oracle = List.replicate (3 * 1) .err ++ scriptOf (writeRegEvents s.cfg s.crcOff 0x30 1) ++ [] := by decide +kernel
theorem wit_register_operations_read :
    let fs : List SlaveFrame := [⟨[], 0xF0, [1, 2, 3, 4], [0, 0]⟩]
    let s := small (List.replicate (3 * 0) .err ++ scriptOf (readRegEvents smallCfg false 0x100 fs))
    s.admits 0 ∧ s.lock = .free ∧ 0 < attempts s.cfg ∧ fs.map (fun f => f.body) = piecesOf s.cfg.dataPktSz 4 [1, 2, 3, 4] ∧
    (∀ f ∈ fs, f.accepted s.cfg.rspRetry) ∧
    s.oracle = List.replicate (3 * 0) .err ++ scriptOf (readRegEvents s.cfg s.crcOff 0x100 fs) ++ [] := by decide +kernel
theorem wit_locked_units :
    let s := small []
    s.admits 0 ∧ s.lock = .free := by decide +kernel
/-- The last of the attempts that `OP_RETRY = 0` allows. -/
theorem wit_register_operations_zero_retry :
    let s := zeroRetry (List.replicate (3 * 15) .err ++ scriptOf (writeRegEvents smallCfg false 0x30 1))
    s.admits 0 ∧ s.lock = .free ∧ 15 < attempts s.cfg ∧
    s.oracle = List.replicate (3 * 15) .err ++ scriptOf (writeRegEvents s.cfg s.crcOff 0x30 1) ++ [] := by decide +kernel
theorem wit_dead_bus :
    let s := small (List.replicate (3 * 2) .err)
    s.admits 0 ∧ s.lock = .free ∧ s.oracle = List.replicate (3 * attempts s.cfg) .err ++ [] ∧
    s.bufferReady 0 1 0 (10 : Word).toNat true ∧ s.bufferReady 0 1 0 (10 : Word).toNat false := by decide +kernel
theorem wit_dead_bus_zero_retry :
    let s := zeroRetry (List.replicate (3 * 16) .err)
    s.admits 0 ∧ s.lock = .free ∧ s.oracle = List.replicate (3 * attempts s.cfg) .err ++ [] ∧
    s.bufferReady 0 1 0 (10 : Word).toNat true ∧ s.bufferReady 0 1 0 (10 : Word).toNat false := by decide +kernel
/-- A chunk that is just full. -/
theorem wit_write_one_chunk :
    let s := small (commandAnswers smallCfg.opc.dmaExtWrite ++ writeAnswers smallCfg false 6)
    s.admits 0 ∧ s.lock = .free ∧ s.cfg.success = 0 ∧ s.bufferReady 0 1 0 (6 : Word).toNat false ∧
    (6 : Word).toNat ≤ chunkSize s.cfg ∧
    s.oracle = commandAnswers s.cfg.opc.dmaExtWrite ++ writeAnswers s.cfg s.crcOff (6 : Word).toNat ++ [] := by decide +kernel
theorem wit_read_one_chunk :
    let fs := twoFrames [1, 2, 3, 4, 5, 6]
    let s := small (scriptOf (blockReadEvents smallCfg false 0xFFFFFF 6 fs))
    s.admits 0 ∧ s.lock = .free ∧ s.cfg.success = 0 ∧ s.bufferReady 0 1 0 (6 : Word).toNat true ∧
    (6 : Word).toNat ≤ chunkSize s.cfg ∧ fs.map (fun f => f.body) = piecesOf s.cfg.dataPktSz 6 [1, 2, 3, 4, 5, 6] ∧
    (∀ f ∈ fs, f.accepted s.cfg.rspRetry) ∧
    s.oracle = scriptOf (blockReadEvents s.cfg s.crcOff 0xFFFFFF (6 : Word).toNat fs) ++ [] := by decide +kernel
/-- One byte more: two chunks. -/
theorem wit_first_chunk :
    let s := small []
    s.admits 0 ∧ s.lock = .free ∧ s.cfg.success = 0 ∧ chunkSize s.cfg < (7 : Word).toNat ∧
    s.bufferReady 0 1 0 (7 : Word).toNat (!false) ∧ s.bufferReady 0 1 0 (7 : Word).toNat (!true) := by decide +kernel
theorem wit_write_every_chunk :
    let chunks := piecesOf (chunkSize smallCfg) 7 [1, 2, 3, 4, 5, 6, 7]
    let s := { small (scriptOf (writeChunks smallCfg false 0 0xFFFFFFFF chunks)) with sched := [0] }
    s.admits 0 ∧ s.lock = .free ∧ s.cfg.success = 0 ∧ s.bufferReady 0 1 0 (7 : Word).toNat false ∧
    s.mem.known? 1 (7 : Word).toNat 0 = some [1, 2, 3, 4, 5, 6, 7] ∧
    s.sched = List.replicate (chunks.length - 1) 0 ++ [] ∧
    s.oracle = scriptOf (writeChunks s.cfg s.crcOff 0 0xFFFFFFFF chunks) ++ [] := by decide +kernel
theorem wit_read_every_chunk :
    let fss : List (List SlaveFrame) := [twoFrames [1, 2, 3, 4, 5, 6], [⟨[], 0xF0, [7], [0, 0]⟩]]
    let s := { small (scriptOf (readChunks smallCfg false 0 0 fss)) with sched := [0] }
    s.admits 0 ∧ s.lock = .free ∧ s.cfg.success = 0 ∧ s.bufferReady 0 1 0 (7 : Word).toNat true ∧
    fss.map (fun fs => fs.map (fun f => f.body)) =
      (piecesOf (chunkSize s.cfg) 7 [1, 2, 3, 4, 5, 6, 7]).map (fun p => piecesOf s.cfg.dataPktSz p.length p) ∧
    (∀ fs ∈ fss, ∀ f ∈ fs, f.accepted s.cfg.rspRetry) ∧ s.sched = List.replicate (fss.length - 1) 0 ++ [] ∧
    s.oracle = scriptOf (readChunks s.cfg s.crcOff 0 0 fss) ++ [] := by decide +kernel
theorem wit_round_trip :
    let chunks := piecesOf (chunkSize smallCfg) 7 [1, 2, 3, 4, 5, 6, 7]
    let evs := writeChunks smallCfg false 0 0xFFFFF9 chunks ++
      readChunks smallCfg false 0 0xFFFFF9 (chunks.map (plainFrames 4))
    let s := { small (scriptOf evs) with sched := [0, 0] }
    s.admits 0 ∧ s.lock = .free ∧ s.cfg.success = 0 ∧ (1 : BufId) ≠ 2 ∧ s.bufferReady 0 1 0 (7 : Word).toNat false ∧
    s.bufferReady 0 2 0 (7 : Word).toNat true ∧ s.mem.known? 1 (7 : Word).toNat 0 = some [1, 2, 3, 4, 5, 6, 7] ∧
    (0xFFFFF9 : Word).extractLsb' 24 8 = 0 ∧ (0xFFFFF9 : Word).toNat + (7 : Word).toNat ≤ 2 ^ 24 ∧
    s.sched = List.replicate (2 * (chunks.length - 1)) 0 ∧ s.oracle = scriptOf evs ++ [] := by decide +kernel
theorem wit_set_crc :
    held.admits held.issuer ∧ held.lock = .held held.issuer ∧ (small [.good []]).onBus ∧ (small []).cfg.opc = defaultOpc ∧
    { held with issuer := 1 }.admits 1 ∧ (0 : Nat) ≠ 1 := by decide +kernel
theorem wit_lock : (small []).admits 0 ∧ (small []).lock = .free ∧ held.admits 0 ∧ held.lock = .held 0 ∧ held.admits 1 := by
  decide +kernel
theorem wit_waiting :
    held.admits 1 ∧ held.lock ≠ .free ∧ held.bufferReady 1 1 0 (10 : Word).toNat true ∧
    held.bufferReady 1 1 0 (10 : Word).toNat false := by decide +kernel

/-- A sound state in which a requester waits for itself. -/
theorem deadlocked_sound : deadlocked.Sound where
  history := by decide
  memory := by decide
  commandBuffer := by decide
  temporary := by decide
  rising := by decide
  positions := by
    intro x hx
    simp only [deadlocked, List.mem_singleton] at hx
    subst hx
    exact ⟨by decide, .inl ⟨0, rfl⟩⟩

/-- A sound state with a block operation between two chunks. -/
theorem between_sound : between.Sound where
  history := by decide
  memory := by decide
  commandBuffer := by decide
  temporary := by decide
  rising := by decide
  positions := by
    intro x hx
    simp only [between, List.mem_singleton] at hx
    subst hx
    exact ⟨by decide, show chunkSize smallCfg * 1 < (10 : Word).toNat by decide⟩

theorem wit_later_chunk :
    between.Sound ∧ between.cfg.wf = true ∧ between.lock = .free ∧ between.cfg.success = 0 ∧
    between.sched = 1 :: [] ∧ between.seqOf 1 = some (.block ⟨false, 1, 0, 10, 1⟩) :=
  ⟨between_sound, by decide +kernel, by decide, by decide, by decide, by decide⟩
theorem wit_waiting_step :
    deadlocked.Sound ∧ deadlocked.cfg.wf = true ∧ deadlocked.sched = 0 :: [] ∧
    deadlocked.seqOf 0 = some (.waiting (.readReg 0 0)) ∧
    deadlocked.lock ≠ .free :=
  ⟨deadlocked_sound, by decide +kernel, by decide, by decide, by decide⟩
theorem wit_self_deadlock :
    deadlocked.Sound ∧ deadlocked.selfDeadlock 0 ∧ after (fun t => t.h) (step deadlocked) = some deadlocked.h :=
  ⟨deadlocked_sound, by decide, by decide +kernel⟩
theorem wit_transport_needs_lock :
    needsBus .spiReset = true ∧ { held with issuer := 1 }.admits 1 ∧ held.lock ≠ .held 1 ∧ held.lock ≠ .free ∧
    between.admits between.issuer ∧ between.lock ≠ .held between.issuer ∧ 1 < between.cfg.nreq ∧
    held.lock = .held held.issuer ∧ (small []).admits 0 ∧ (small []).lock = .free ∧ (small []).cfg.nreq = 1 := by
  decide +kernel
theorem wit_guards :
    { small [] with cfg := { smallCfg with nreq := 0 } }.cfg.wf = false ∧ (small []).cfg.wf = true ∧
    (small []).cfg.nreq ≤ (Instr.readReg 1 0).requester?.getD 0 ∧
    (Instr.readReg 1 0).requester?.getD 0 < between.cfg.nreq ∧ (between.seqOf 1).isSome = true := by decide +kernel
theorem wit_step_runs_request :
    (small []).cfg.wf = true ∧ { small [] with sched := [0] }.sched = 0 :: [] ∧ (small []).seqOf 0 = none ∧
    takeRequest 0 [⟨1, .request, [0x0C]⟩, ⟨0, .request, [0x1D, 0]⟩] =
      some (⟨0, .request, [0x1D, 0]⟩, [⟨1, .request, [0x0C]⟩]) ∧
    decoded .request [0x1D, 0] = some (.lockAcquire 0) ∧ issuedBy 0 (.lockAcquire 0) = true ∧
    decodeTableWord 16 0x001D = some (.lockAcquire 0) ∧ (small []).cfg.opc = defaultOpc := by decide +kernel
theorem wit_step_resumes :
    deadlocked.seqOf 0 = some (.waiting (.readReg 0 0)) ∧ between.cfg.wf = true ∧ between.sched = 1 :: [] ∧
    between.seqOf 1 = some (.block ⟨false, 1, 0, 10, 1⟩) ∧ (∀ x ∈ (small []).port, x.who ≠ 0) := by decide +kernel
/-- From a sound state between two chunks, the next chunk: one locked unit, one result. -/
theorem wit_step_keeps_sound :
    between.Sound ∧
    told (step { between with oracle := List.replicate 6 .err }) =
      some (unitOf 1 (deadRounds 2 smallCfg false (blockBody 0xC8 6 4)), [.code 0xFA]) :=
  ⟨between_sound, by decide +kernel⟩
theorem wit_operations_change :
    after (fun t => (t.lock, t.crcOff)) (exec (.lockAcquire 0) (small [])) = some (.held 0, false) ∧
    after (fun t => (t.lock, t.crcOff)) (exec (.setCrc true) (small [])) = some (.free, true) ∧
    after (fun t => t.mem.known? 1 1 9)
      (exec (.spiDataRead 1 9 1 true) (small [.good [0xF0], .good [0xAB]])) = some (some [0xAB]) ∧
    storedTo (.spiDataRead 1 9 1 true) = some (1, 9, 1) ∧
    between.stepStores = some (1, 6, 4) ∧ deadlocked.stepStores = none := by decide +kernel
/-- Ten bytes in chunks of six, with `OP_RETRY = 0`; an operation that ends at once, and one that waits. -/
theorem wit_no_failure_path :
    let s := { zeroRetry [] with sched := [0] }
    s.admits 0 ∧ s.lock = .free ∧ s.bufferReady 0 1 0 (10 : Word).toNat true ∧ s.bufferReady 0 1 0 (10 : Word).toNat false ∧
    s.sched = List.replicate (pieceCount (chunkSize s.cfg) (10 : Word).toNat - 1) 0 ++ [] ∧
    told (exec (.setCrc true) s) = some ([], [.done]) ∧
    after (fun t => (t.results, t.seqOf 1)) (exec (.readReg 1 0) held) = some ([], some (.waiting (.readReg 1 0))) := by decide +kernel
theorem wit_retry_bounds :
    (1 ≤ (small []).cfg.opRetry → 2 = (small []).cfg.opRetry) ∧ ((small []).cfg.opRetry = 0 → 2 = 16) ∧
    (1 ≤ (zeroRetry []).cfg.opRetry → 16 = (zeroRetry []).cfg.opRetry) ∧ ((zeroRetry []).cfg.opRetry = 0 → 16 = 16) := by
  decide
/-- `RETRY` of a transaction that fails once, and the round that leads to its second attempt. -/
theorem wit_retry :
    ∃ c t, xregRd 0 { small [.err, .err, .err] with att := 0 } = (.fail c, t) ∧
      FailedRounds (xregRd 0) 1 { small [.err, .err, .err] with att := 0 }
        { spiReset t with att := 1 } :=
  ⟨.transportError 0, _, rfl, .succ rfl (.zero _)⟩

end Sys2Proof.Tests
end

section
/-! PROOFS. The guards of 00_scope R7, 10_state R26 and 93 U3 (log entries 7, 26): the well-formed configuration rule by rule,
the three refusals of `whenAdmitted`, and that every meaning of the dispatcher passes through it first. -/

namespace Sys2Proof.Machine

/-- The rules of 00_scope R7 for an opcode map. -/
theorem opcMap_wf_iff (m : OpcMap) : m.wf = true ↔ m.values.Nodup ∧ (0 : Byte) ∉ m.values := by
  simp [OpcMap.wf]

/-- The rules of 00_scope R7 for a configuration, and the table's length (log entry 7). -/
theorem cfg_wf_iff (c : Cfg) :
    c.wf = true ↔
      c.trxOverhead.toNat < c.maxTrxSz.toNat ∧ 1 ≤ c.dataPktSz ∧ c.errBusFail ≠ 0 ∧ c.opc.values.Nodup ∧
      (0 : Byte) ∉ c.opc.values ∧ 1 ≤ c.nreq ∧ c.crc7Table.length = 256 := by
  simp only [Cfg.wf, Bool.and_eq_true, decide_eq_true_eq, opcMap_wf_iff, and_assoc]

/-! ## The refusals of the guard -/

theorem whenAdmitted_of_illFormed {s : State} (h : s.cfg.wf = false) (r : Nat) (k : Answered) :
    whenAdmitted r s k = .refused .illFormedConfig := if_pos h

theorem whenAdmitted_of_noSuchRequester {r : Nat} {s : State} (hw : s.cfg.wf = true) (hr : s.cfg.nreq ≤ r) (k : Answered) :
    whenAdmitted r s k = .refused .noSuchRequester := by
  simp [whenAdmitted, hw, hr]

theorem whenAdmitted_of_busy {r : Nat} {s : State} (hw : s.cfg.wf = true) (hr : r < s.cfg.nreq)
    (hb : (s.seqOf r).isSome = true) (k : Answered) : whenAdmitted r s k = .refused .requesterBusy := by
  simp [whenAdmitted, hw, Nat.not_le.mpr hr, hb]

/-- Whatever the instruction, its meaning begins with the guard, for the requester it names or else for the issuer: layer B
asks for the former, layers G, T and X for the latter. -/
theorem exec_guarded (i : Instr) (s : State) : ∃ k, exec i s = whenAdmitted (i.requester?.getD s.issuer) s k := by
  cases i <;> exact ⟨_, rfl⟩

theorem step_of_illFormed {s : State} (h : s.cfg.wf = false) : step s = .refused .illFormedConfig := if_pos h

/-- Settles O53: each refusal is the guard's own, since `exec_guarded` puts the guard before every meaning. -/
theorem guardsRefuse : Obligations.GuardsRefuse := by
  refine ⟨fun s i hw => ⟨?_, step_of_illFormed hw⟩, cfg_wf_iff, fun s i hw => ⟨fun hr => ?_, fun hr hb => ?_⟩⟩ <;>
    obtain ⟨k, hk⟩ := exec_guarded i s
  · exact hk.trans (whenAdmitted_of_illFormed hw _ k)
  · exact hk.trans (whenAdmitted_of_noSuchRequester hw hr k)
  · exact hk.trans (whenAdmitted_of_busy hw hr hb k)

end Sys2Proof.Machine
end

section
/-! PROOFS. What an internal operation costs, whatever the transport answers (43_transactions R176): how many events it appends at
most, and that the command buffer and `tmp` keep their sizes (10_state R22, 43_transactions R171). One lemma for each operation,
in the order of the model's files. -/

namespace Sys2Proof.Machine

/-- The command buffer and `tmp` have their sizes. -/
def State.Sized (s : State) : Prop := s.cb.length = 9 ∧ s.cbLen.toNat ≤ 9 ∧ s.tmp.length = 4

/-- Under the configuration `c`, which it keeps: at most `n` events are appended, and the sized buffers keep their sizes. -/
def Bounded (c : Cfg) (n : Nat) (s t : State) : Prop :=
  s.cfg = c → t.cfg = c ∧ t.h.length ≤ s.h.length + n ∧ (s.Sized → t.Sized)

/-- An update that appends nothing and touches no sized buffer. -/
theorem bounded_of_eq {c : Cfg} {n : Nat} {s t : State} (hc : t.cfg = s.cfg) (hh : t.h = s.h) (hb : t.cb = s.cb)
    (hl : t.cbLen = s.cbLen) (ht : t.tmp = s.tmp) : Bounded c n s t := fun h =>
  ⟨hc.trans h, by rw [hh]; omega, fun hs => by simpa only [State.Sized, hb, hl, ht] using hs⟩

theorem bounded_refl (c : Cfg) (n : Nat) (s : State) : Bounded c n s s := bounded_of_eq rfl rfl rfl rfl rfl

theorem bounded_mono {c : Cfg} {n m : Nat} {s t : State} (h : Bounded c n s t) (hm : n ≤ m) : Bounded c m s t := fun hc => by
  obtain ⟨h1, h2, h3⟩ := h hc
  exact ⟨h1, by omega, h3⟩

/-- Bounds add up. -/
theorem bounded_trans {c : Cfg} {n m k : Nat} {s t u : State} (a : Bounded c n s t) (b : Bounded c m t u) (hk : n + m ≤ k) :
    Bounded c k s u := fun hc => by
  obtain ⟨a1, a2, a3⟩ := a hc
  obtain ⟨b1, b2, b3⟩ := b a1
  exact ⟨b1, by omega, fun h => b3 (a3 h)⟩

/-- An operation that runs under the configuration `c` alone may be looked at under it. -/
theorem bounded_under {c : Cfg} {n : Nat} {s t : State} (h : s.cfg = c → Bounded c n s t) : Bounded c n s t := fun hc => h hc hc

theorem bounded_andThen {c : Cfg} {n m k : Nat} {α β : Type} {x : Op α} {f : α → Op β} (hx : Keeps (Bounded c n) x)
    (hf : ∀ a, Keeps (Bounded c m) (f a)) (hk : n + m ≤ k) : Keeps (Bounded c k) (andThen x f) := by
  intro s
  have h := hx s
  rcases hr : x s with ⟨a | e, t⟩ <;> rw [hr] at h
  · rw [andThen_of_ok hr]
    exact bounded_trans h (hf a t) hk
  · rw [andThen_of_fail hr]
    exact bounded_mono h (by omega)

/-! ## Transport -/

/-- The transport's answer uses up the script or a draw, nothing else. -/
theorem answer_state (s : State) : s.answer.2 = { s with oracle := s.answer.2.oracle, draws := s.answer.2.draws } := by
  unfold State.answer
  split <;> rfl

theorem answer_bounded (c : Cfg) (n : Nat) (s : State) : Bounded c n s s.answer.2 := by
  rw [answer_state]
  exact bounded_of_eq rfl rfl rfl rfl rfl

theorem log_bounded (c : Cfg) (s : State) (e : Event) : Bounded c 1 s (s.log e) := fun h => ⟨h, by simp, id⟩

theorem sendBurst_bounded (c : Cfg) (bs : List Byte) : Keeps (Bounded c 1) (sendBurst bs) := by
  intro s
  have h : (sendBurst bs s).2 = (txWrite bs s).2 := by
    unfold sendBurst; rcases txWrite bs s with ⟨_ | _, t⟩ <;> rfl
  rw [h, txWrite_spec]
  exact bounded_trans (answer_bounded c 0 s) (log_bounded c _ _) (by omega)

theorem readBurst_bounded (c : Cfg) (m : Nat) : Keeps (Bounded c 1) (readBurst m) := by
  intro s
  have ha := answer_bounded c 0 s
  unfold readBurst txRead
  rcases hs : s.answer with ⟨_ | bs, t⟩ <;> rw [hs] at ha
  · exact bounded_trans ha (log_bounded c _ _) (by omega)
  · have hd : Bounded c 0 t (t.drawn (m - bs.length)) := bounded_of_eq rfl rfl rfl rfl rfl
    exact bounded_trans (bounded_trans ha hd (le_refl _)) (log_bounded c _ _) (by omega)

theorem readRsp_bounded (c : Cfg) : Keeps (Bounded c 1) readRsp :=
  bounded_andThen (m := 0) (readBurst_bounded c 1) (fun _ _ => bounded_of_eq rfl rfl rfl rfl rfl) (by omega)

/-- One read, and one for each retry left. -/
theorem awaitLoop_bounded (c : Cfg) (accept : Byte → Bool) (cause : Byte → Cause) (k : Nat) :
    Keeps (Bounded c (k + 1)) (awaitLoop accept cause k) := by
  induction k with
  | zero =>
    refine bounded_andThen (m := 0) (readRsp_bounded c) (fun b => ?_) (by omega)
    split
    · exact keeps_give (bounded_refl c 0) ()
    · exact keeps_raise (bounded_refl c 0) _
  | succ k ih =>
    refine bounded_andThen (m := k + 1) (readRsp_bounded c) (fun b => ?_) (by omega)
    split
    · exact keeps_give (bounded_refl c _) ()
    · exact bounded_andThen (n := 0) (keeps_assign fun _ => bounded_of_eq rfl rfl rfl rfl rfl) (fun _ => ih) (by omega)

theorem awaitByte_bounded (c : Cfg) (accept : Byte → Bool) (cause : Byte → Cause) :
    Keeps (Bounded c (c.rspRetry + 1)) (awaitByte accept cause) := fun s => bounded_under fun hc => by
  subst hc
  exact bounded_trans (t := { s with rk := 0 }) (bounded_of_eq (n := 0) rfl rfl rfl rfl rfl)
    (awaitLoop_bounded s.cfg accept cause s.cfg.rspRetry { s with rk := 0 }) (by omega)

/-! ## Commands -/

theorem npay_le (c : CmdName) : npay c ≤ 7 := by cases c <;> decide

theorem loadFrame_bounded (c : Cfg) (s : State) {fr : List Byte} (h : fr.length ≤ 9) : Bounded c 0 s (s.loadFrame fr) := fun hc =>
  ⟨hc, by simp, fun hs => ⟨loadFrame_cb_length s h, by simp; omega, hs.2.2⟩⟩

/-- `CB` has room for the opcode, the longest payload and the CRC byte. -/
theorem buildFrame_bounded (c : Cfg) (s : State) {body : List Byte} (h : body.length ≤ 8) : Bounded c 0 s (s.buildFrame body) := by
  unfold State.buildFrame
  split
  · exact loadFrame_bounded c s (by omega)
  · exact bounded_trans (t := { s with crc := Cfg.crcSum s.cfg body }) (bounded_of_eq (n := 0) rfl rfl rfl rfl rfl)
      (loadFrame_bounded c _ (by simp; omega)) (le_refl _)

theorem voidCommand_bounded (c : Cfg) (s : State) : Bounded c 0 s s.voidCommand := fun hc =>
  ⟨hc, by simp, fun hs => ⟨by simp [freeBytes_length], by simp; omega, hs.2.2⟩⟩

theorem spiCmd_bounded (c : Cfg) (cmd : Byte) (adr dat sz : Word) (clk : Bool) : Keeps (Bounded c 1) (spiCmd cmd adr dat sz clk) := by
  intro s
  have h0 : Bounded c 0 s { s with cmd := cmd, clk := clk } := bounded_of_eq rfl rfl rfl rfl rfl
  unfold spiCmd
  split
  · exact bounded_trans h0 (voidCommand_bounded c _) (by omega)
  · rename_i name _
    have hlen : (cmd :: payload name adr dat sz clk).length ≤ 8 := by
      have := npay_le name
      simp only [List.length_cons, payload_length]; omega
    exact bounded_trans (bounded_trans h0 (buildFrame_bounded c _ hlen) (le_refl _)) (sendBurst_bounded c _ _) (by omega)

theorem command_bounded (c : Cfg) (name : CmdName) (adr dat sz : Word) (clk : Bool) :
    Keeps (Bounded c 1) (command name adr dat sz clk) := fun s => spiCmd_bounded c _ adr dat sz clk s

theorem spiCmdRsp_bounded (c : Cfg) (cmd : Byte) : Keeps (Bounded c (2 * (c.rspRetry + 1))) (spiCmdRsp cmd) :=
  bounded_andThen (awaitByte_bounded c _ _) (fun _ => awaitByte_bounded c _ _) (by omega)

/-- A command frame and its response, then an operation of at most `m` events. -/
theorem bounded_commandThen {c : Cfg} {m : Nat} {β : Type} (name : CmdName) (adr dat sz : Word) (clk : Bool) (cmd : Byte)
    {f : Unit → Op β} (hf : ∀ a, Keeps (Bounded c m) (f a)) :
    Keeps (Bounded c (commandCalls c + m)) (andThen (command name adr dat sz clk) fun _ => andThen (spiCmdRsp cmd) f) :=
  bounded_andThen (command_bounded c name adr dat sz clk)
    (fun _ => bounded_andThen (spiCmdRsp_bounded c cmd) hf (le_refl _)) (by unfold commandCalls; omega)

/-! ## Data phases -/

theorem frameCount_zero (c : Cfg) : frameCount c 0 = 0 := by
  unfold frameCount
  rcases Nat.eq_zero_or_pos c.dataPktSz with h | h
  · simp [h]
  · exact Nat.div_eq_of_lt (by omega)

/-- The first frame, and those of what it leaves. -/
theorem frameCount_step {c : Cfg} (hc : 1 ≤ c.dataPktSz) {n : Nat} (hn : 1 ≤ n) :
    frameCount c n = frameCount c (n - min n c.dataPktSz) + 1 := by
  rcases Nat.le_total n c.dataPktSz with h | h
  · rw [Nat.min_eq_left h, Nat.sub_self, frameCount_zero]
    exact Nat.div_eq_of_lt_le (by omega) (by omega)
  · rw [Nat.min_eq_right h]
    unfold frameCount
    rw [← Nat.add_div_right _ hc]
    congr 1
    omega

/-- A data phase into `tmp` moves no more than its four bytes (43_transactions R171). -/
def Dest.fits (d : Dest) (n : Nat) : Prop := d = .tmp → n ≤ 4

theorem fits_host (buf : BufId) (off n : Nat) : (Dest.host buf off).fits n := fun h => by cases h

theorem store_bounded (c : Cfg) {d : Dest} {ix : Nat} {bs : List Byte} (hd : d.fits (ix + bs.length)) (s : State) :
    Bounded c 0 s (d.store ix bs s) := by
  cases d with
  | host buf off => exact bounded_of_eq rfl rfl rfl rfl rfl
  | tmp =>
    have h4 := hd rfl
    refine fun hc => ⟨hc, by simp [Dest.store], fun ⟨h1, h2, h3⟩ => ⟨h1, h2, ?_⟩⟩
    simp only [Dest.store, List.length_append, List.length_take, List.length_drop, h3]
    omega

theorem lose_bounded (c : Cfg) (d : Dest) (n : Nat) (s : State) : Bounded c 0 s (d.lose n s) := by
  cases d with
  | host buf off => exact bounded_of_eq rfl rfl rfl rfl rfl
  | tmp => exact fun hc => ⟨hc, by simp [Dest.lose], fun ⟨h1, h2, _⟩ => ⟨h1, h2, freeBytes_length _ _⟩⟩

theorem discardTrailer_bounded (c : Cfg) (clk : Bool) : Keeps (Bounded c 1) (discardTrailer clk) := by
  intro s
  unfold discardTrailer
  split
  · exact bounded_andThen (m := 0) (readBurst_bounded c 2) (fun _ => keeps_give (bounded_refl c 0) ()) (by omega) s
  · exact bounded_refl c 1 s

theorem readFrame_bounded (c : Cfg) {d : Dest} (clk : Bool) {ix nb : Nat} (hd : d.fits (ix + nb)) :
    Keeps (Bounded c (c.rspRetry + 3)) (readFrame d clk ix nb) := by
  refine bounded_andThen (n := 0) (keeps_assign fun _ => bounded_of_eq rfl rfl rfl rfl rfl) (fun _ => ?_) (Nat.zero_add _).le
  refine bounded_andThen (m := 2) (awaitByte_bounded c _ _) (fun _ s => ?_) (by omega)
  have hb := readBurst_bounded c nb s
  rcases hr : readBurst nb s with ⟨bs | e, t⟩ <;> rw [hr] at hb
  · rw [andThen_of_ok hr]
    rw [← readBurst_length hr] at hd
    exact bounded_trans hb (bounded_andThen (n := 0) (keeps_assign fun u => store_bounded c hd u)
      (fun _ => discardTrailer_bounded c clk) (Nat.zero_add _).le t) (le_refl _)
  · rw [andThen_of_fail hr]
    exact bounded_mono hb (by omega)

/-- The frames of a read data phase: each turn moves at least one byte, so there are `ceil(rem / DATA_PKT_SZ)` of them. -/
theorem readFrames_bounded {c : Cfg} (hp : 1 ≤ c.dataPktSz) {d : Dest} (clk : Bool) (fuel : Nat) {ix rem : Nat}
    (hd : d.fits (ix + rem)) (hrem : fuel = 0 ∨ 1 ≤ rem) : Keeps (Bounded c (readCalls c rem)) (readFrames d clk fuel ix rem) := by
  induction fuel generalizing ix rem with
  | zero => exact keeps_give (bounded_refl c _) ()
  | succ fuel ih =>
    intro s
    refine bounded_under fun hc => ?_
    subst hc
    have hcount : readCalls s.cfg rem = (s.cfg.rspRetry + 3) + readCalls s.cfg (rem - min rem s.cfg.dataPktSz) := by
      unfold readCalls
      rw [frameCount_step hp (by omega), Nat.mul_add, Nat.mul_one, Nat.add_comm]
    have hfit : d.fits (ix + min rem s.cfg.dataPktSz) := fun h => by have := hd h; omega
    refine bounded_andThen (m := readCalls s.cfg (rem - min rem s.cfg.dataPktSz)) (readFrame_bounded s.cfg clk hfit)
      (fun _ => ?_) hcount.ge s
    refine bounded_andThen (n := 0) (keeps_assign fun _ => bounded_of_eq rfl rfl rfl rfl rfl) (fun _ t => ?_) (Nat.zero_add _).le
    refine bounded_under fun ht => ?_
    simp only [ht]
    split
    · exact bounded_refl _ _ t
    · exact ih (fun h => by have := hd h; omega) (by omega) t

theorem spiDataRead_bounded {c : Cfg} (hp : 1 ≤ c.dataPktSz) {d : Dest} {size : Nat} (hd : d.fits size) (clk : Bool) :
    Keeps (Bounded c (readCalls c size)) (spiDataRead d size clk) := by
  intro s
  have h := bounded_trans (t := s.setPhase 0 size) (bounded_of_eq (c := c) (n := 0) rfl rfl rfl rfl rfl)
    (readFrames_bounded hp clk size (ix := 0) (by simpa using hd) (by omega) (s.setPhase 0 size)) (Nat.zero_add _).le
  unfold spiDataRead
  rcases hr : readFrames d clk size 0 size (s.setPhase 0 size) with ⟨_ | e, t⟩ <;> rw [hr] at h
  · exact h
  · exact bounded_trans h (lose_bounded c d size t) (le_refl _)

theorem sendHeader_bounded (c : Cfg) (order : BitVec 2) : Keeps (Bounded c 1) (sendHeader order) :=
  bounded_andThen (n := 0) (keeps_assign fun _ => bounded_of_eq rfl rfl rfl rfl rfl) (fun _ => sendBurst_bounded c _) (by omega)

theorem sendTrailer_bounded (c : Cfg) : Keeps (Bounded c 1) sendTrailer := by
  intro s
  unfold sendTrailer
  split
  · exact sendBurst_bounded c _ s
  · exact bounded_refl c 1 s

theorem writeFrame_bounded (c : Cfg) (buf : BufId) (off ix rem nb : Nat) : Keeps (Bounded c 3) (writeFrame buf off ix rem nb) :=
  bounded_andThen (n := 0) (keeps_assign fun _ => bounded_of_eq rfl rfl rfl rfl rfl) (fun _ s =>
    bounded_andThen (m := 2) (sendHeader_bounded c _) (fun _ =>
      bounded_andThen (n := 0) (fun _ => bounded_of_eq rfl rfl rfl rfl rfl) (fun bs =>
        bounded_andThen (sendBurst_bounded c bs) (fun _ => sendTrailer_bounded c) (le_refl _)) (le_refl _)) (le_refl _) s)
    (le_refl _)

/-- The frames of a write data phase, counted as those of a read. -/
theorem writeFrames_bounded {c : Cfg} (hp : 1 ≤ c.dataPktSz) (buf : BufId) (off fuel : Nat) {ix rem : Nat}
    (hrem : fuel = 0 ∨ 1 ≤ rem) : Keeps (Bounded c (writeCalls c rem)) (writeFrames buf off fuel ix rem) := by
  induction fuel generalizing ix rem with
  | zero => exact keeps_give (bounded_refl c _) ()
  | succ fuel ih =>
    intro s
    refine bounded_under fun hc => ?_
    subst hc
    have hcount : writeCalls s.cfg rem = 3 + writeCalls s.cfg (rem - min rem s.cfg.dataPktSz) := by
      unfold writeCalls
      rw [frameCount_step hp (by omega), Nat.mul_add, Nat.mul_one, Nat.add_comm]
    refine bounded_andThen (m := writeCalls s.cfg (rem - min rem s.cfg.dataPktSz)) (writeFrame_bounded s.cfg buf off ix rem _)
      (fun _ => ?_) hcount.ge s
    refine bounded_andThen (n := 0) (keeps_assign fun _ => bounded_of_eq rfl rfl rfl rfl rfl) (fun _ t => ?_) (Nat.zero_add _).le
    refine bounded_under fun ht => ?_
    simp only [ht]
    split
    · exact bounded_refl _ _ t
    · exact ih (by omega) t

theorem spiDataWrite_bounded {c : Cfg} (hp : 1 ≤ c.dataPktSz) (buf : BufId) (off size : Nat) :
    Keeps (Bounded c (writeCalls c size)) (spiDataWrite buf off size) := fun s =>
  bounded_trans (t := s.setPhase 0 size) (bounded_of_eq (n := 0) rfl rfl rfl rfl rfl)
    (writeFrames_bounded hp buf off size (by omega) (s.setPhase 0 size)) (Nat.zero_add _).le

/-! ## Transactions -/

theorem spiReset_bounded (c : Cfg) (s : State) : Bounded c (commandCalls c) s (spiReset s) :=
  bounded_trans (command_bounded c .reset 0 0 0 false s) (spiCmdRsp_bounded c _ _) (le_refl _)

/-- Failure entry gives every sized buffer a value of its size (60_exceptions R224). -/
theorem voidTransients_bounded (c : Cfg) (s : State) : Bounded c 0 s s.voidTransients := fun hc =>
  ⟨hc, by simp, fun _ => ⟨by simp [freeBytes_length], by simp; omega, by simp [freeBytes_length]⟩⟩

theorem attempt_bounded {c : Cfg} {n : Nat} {α : Type} {lost : State → State} {x : Op α} (hl : ∀ s, Bounded c 0 s (lost s))
    (hx : Keeps (Bounded c n) x) : Keeps (Bounded c n) (attempt lost x) := by
  intro s
  have h := hx s
  unfold attempt
  rcases hr : x s with ⟨a | e, t⟩ <;> rw [hr] at h
  · exact h
  · exact bounded_trans h (bounded_trans (voidTransients_bounded c t) (hl _) (le_refl _)) (le_refl _)

theorem xregRd_bounded {c : Cfg} (hp : 1 ≤ c.dataPktSz) (adr : Word) :
    Keeps (Bounded c (commandCalls c + readCalls c 4)) (xregRd adr) :=
  attempt_bounded (bounded_refl c 0) fun s => bounded_commandThen _ adr 0 4 _ _ (fun _ =>
    bounded_andThen (m := 0) (spiDataRead_bounded hp (fun _ => le_refl 4) _) (fun _ t => bounded_refl c 0 t) (le_refl _)) s

theorem xregWr_bounded (c : Cfg) (adr dat : Word) : Keeps (Bounded c (commandCalls c)) (xregWr adr dat) :=
  attempt_bounded (bounded_refl c 0) fun s =>
    bounded_andThen (command_bounded c _ adr dat 4 _) (fun _ => spiCmdRsp_bounded c _) (le_refl _) s

theorem xblkRd_bounded {c : Cfg} (hp : 1 ≤ c.dataPktSz) (adr : Word) (buf : BufId) (off n : Nat) :
    Keeps (Bounded c (blockCalls c false n)) (xblkRd adr buf off n) :=
  attempt_bounded (fun s => lose_bounded c (.host buf off) n s) fun s =>
    bounded_commandThen .dmaExtRead adr 0 _ false _ (fun _ => spiDataRead_bounded hp (fits_host buf off n) false) s

theorem xblkWr_bounded {c : Cfg} (hp : 1 ≤ c.dataPktSz) (adr : Word) (buf : BufId) (off n : Nat) :
    Keeps (Bounded c (blockCalls c true n)) (xblkWr adr buf off n) :=
  attempt_bounded (bounded_refl c 0) fun s =>
    bounded_commandThen .dmaExtWrite adr 0 _ false _ (fun _ => spiDataWrite_bounded hp buf off n) s

/-- A failed attempt costs its own events and those of the bus reset after it. -/
theorem afterFailure_bounded {c : Cfg} {n : Nat} {s t : State} (h : Bounded c n s t) :
    Bounded c (n + commandCalls c) s (afterFailure s t) :=
  bounded_trans h (bounded_trans (spiReset_bounded c t) (bounded_of_eq (n := 0) rfl rfl rfl rfl rfl) (le_refl _)) (le_refl _)

theorem retryLoop_bounded {c : Cfg} {n : Nat} {α : Type} {x : Op α} (hx : Keeps (Bounded c n) x) (k : Nat) :
    Keeps (Bounded c (k * (n + commandCalls c))) (retryLoop x k) := by
  induction k with
  | zero => exact keeps_raise (bounded_refl c _) _
  | succ k ih =>
    intro s
    have h := hx s
    have hk : (n + commandCalls c) + k * (n + commandCalls c) = (k + 1) * (n + commandCalls c) := by
      rw [Nat.succ_mul, Nat.add_comm]
    unfold retryLoop
    rcases hr : x s with ⟨a | e, t⟩ <;> rw [hr] at h
    · exact bounded_mono h (by omega)
    · exact bounded_trans (afterFailure_bounded h) (ih _) hk.le

/-- `RETRY` ends after `attempts` attempts, each with its bus reset (43_transactions R175, R176). -/
theorem retry_bounded {c : Cfg} {n : Nat} {α : Type} {x : Op α} (hx : Keeps (Bounded c n) x) :
    Keeps (Bounded c (retryCalls c n)) (retry x) := fun s => bounded_under fun hc => by
  subst hc
  exact bounded_trans (t := { s with att := 0 }) (bounded_of_eq (n := 0) rfl rfl rfl rfl rfl)
    (retryLoop_bounded hx (attempts s.cfg) { s with att := 0 }) (Nat.zero_add _).le

end Sys2Proof.Machine
end

section
/-! PROOFS. Internal operations and locked units put together: events, stored bytes, sizes and frame of an operation in one
statement, `Account`; of a unit that takes a free lock and gives it back, `LockedUnit`; and of a turn of the chunk loop, `Turned`
(20_memory R57, 44_bus R190 to R197). -/

namespace Sys2Proof.Machine

/-! ## Where bytes are stored -/

/-- Bytes change in this region only, or nowhere; the canonical form is kept. -/
def OnlyIn (R : Option (BufId × Nat × Nat)) (s t : State) : Prop :=
  match R with
  | none => OnlyAt 0 0 0 s t
  | some (g, a, n) => OnlyAt g a n s t

theorem onlyIn_of_eq {R : Option (BufId × Nat × Nat)} {s t : State} (h : t.mem = s.mem) : OnlyIn R s t := by
  rcases R with _ | ⟨g, a, n⟩ <;> exact onlyAt_of_eq h

theorem onlyIn_trans {R : Option (BufId × Nat × Nat)} {s t u : State} (h : OnlyIn R s t) (k : OnlyIn R t u) : OnlyIn R s u := by
  rcases R with _ | ⟨g, a, n⟩ <;> exact onlyAt_trans h k

theorem onlyIn_wf {R : Option (BufId × Nat × Nat)} {s t : State} (h : OnlyIn R s t) (hs : s.mem.wf) : t.mem.wf := by
  rcases R with _ | ⟨g, a, n⟩ <;> exact h.2 hs

theorem onlyIn_sameBytes {R : Option (BufId × Nat × Nat)} {s t : State} (h : OnlyIn R s t) (hR : R = none) : s.SameBytes t := by
  subst hR
  exact fun b k => h.1 b k (by omega)

theorem onlyIn_sameBytesBut {R : Option (BufId × Nat × Nat)} {s t : State} (h : OnlyIn R s t) {buf : BufId} {off n : Nat}
    (hR : R = some (buf, off, n)) : s.SameBytesBut t buf off n := by
  subst hR
  exact fun b k hk => h.1 b k (by rintro ⟨rfl, h1, h2⟩; rcases hk with hk | hk | hk <;> [exact hk rfl; omega; omega])

/-! ## The account of an internal operation -/

/-- All an internal operation does outside itself, at most `n` events and the region it stores to among it. -/
structure Account (n : Nat) (R : Option (BufId × Nat × Nat)) (s t : State) : Prop extends Inside s t where
  count : t.h.length ≤ s.h.length + n
  stores : OnlyIn R s t
  sized : s.Sized → t.Sized

theorem account_of {n : Nat} {R : Option (BufId × Nat × Nat)} {s t : State} (hi : Inside s t) (hb : Bounded s.cfg n s t)
    (hs : OnlyIn R s t) : Account n R s t :=
  have ⟨_, hn, hz⟩ := hb rfl
  ⟨hi, hn, hs, hz⟩

/-- An update of registers that are not the sized buffers. -/
theorem account_of_eq {R : Option (BufId × Nat × Nat)} {s t : State} (ho : s.SameOutside t) (hh : t.h = s.h)
    (hr : t.results = s.results) (hm : t.mem = s.mem) (hb : t.cb = s.cb) (hl : t.cbLen = s.cbLen) (ht : t.tmp = s.tmp) :
    Account 0 R s t :=
  account_of (inside_of_eq hh ho hr) (bounded_of_eq ho.cfg hh hb hl ht) (onlyIn_of_eq hm)

/-- The bursts an account has added. -/
theorem account_bursts {n : Nat} {R : Option (BufId × Nat × Nat)} {s t : State} (a : Account n R s t) :
    ∃ evs : List Event, t.h = s.h ++ evs ∧ (∀ e ∈ evs, e.isBurst = true) ∧ evs.length ≤ n := by
  obtain ⟨evs, he, hb⟩ := a.grew
  have hn := a.count
  rw [he, List.length_append] at hn
  exact ⟨evs, he, hb, by omega⟩

theorem account_zero_h {R : Option (BufId × Nat × Nat)} {s t : State} (a : Account 0 R s t) : t.h = s.h := by
  obtain ⟨evs, he, _, hn⟩ := account_bursts a
  have hnil : evs = [] := List.length_eq_zero_iff.mp (by omega)
  rw [he, hnil, List.append_nil]

/-! ## Locked units -/

/-- One whole locked unit of requester `r` from a free lock: what lies between is bursts, and the lock is free again. -/
structure LockedUnit (r n : Nat) (R : Option (BufId × Nat × Nat)) (s t : State) : Prop where
  free : s.lock = .free
  outside : s.SameOutside t
  events : ∃ inner : List Event, t.h = s.h ++ unitOf r inner ∧ (∀ e ∈ inner, e.isBurst = true) ∧ inner.length ≤ n
  results : t.results = s.results
  stores : OnlyIn R s t
  sized : s.Sized → t.Sized

/-- Registers set before and after a unit do not change that it is one. -/
theorem lockedUnit_between {r n : Nat} {R : Option (BufId × Nat × Nat)} {s s' t t' : State} (a : Account 0 R s s')
    (h : LockedUnit r n R s' t) (b : Account 0 R t t') : LockedUnit r n R s t' where
  free := a.outside.lock ▸ h.free
  outside := sameOutside_trans a.outside (sameOutside_trans h.outside b.outside)
  events := by rw [account_zero_h b, ← account_zero_h a]; exact h.events
  results := b.results.trans (h.results.trans a.results)
  stores := onlyIn_trans a.stores (onlyIn_trans h.stores b.stores)
  sized := fun hs => b.sized (h.sized (a.sized hs))

theorem account_refl (R : Option (BufId × Nat × Nat)) (s : State) : Account 0 R s s :=
  account_of_eq (sameOutside_refl s) rfl rfl rfl rfl rfl rfl

/-- `RETRY` of a transaction between taking a free lock and giving it back. -/
theorem lockedRetry_unit {α : Type} {x : Op α} {r n : Nat} {R : Option (BufId × Nat × Nat)} {s : State} (hfree : s.lock = .free)
    (hi : Keeps Inside x) (hb : Keeps (Bounded s.cfg n) x) (hs : OnlyIn R (s.takeLock r) (retry x (s.takeLock r)).2) :
    LockedUnit r (retryCalls s.cfg n) R s (lockedRetry r x s).2 := by
  have a := account_of (retry_inside hi (s.takeLock r)) (retry_bounded hb (s.takeLock r)) hs
  obtain ⟨evs, he, hburst, hn⟩ := account_bursts a
  obtain ⟨hcfg, hcrc, _, hseqs, hlens, hport, hissuer, hsched⟩ := a.outside
  refine ⟨hfree, ⟨hcfg, hcrc, hfree.symm, hseqs, hlens, hport, hissuer, hsched⟩, ⟨evs, ?_, hburst, hn⟩, a.results, ?_, a.sized⟩
  · show (retry x (s.takeLock r)).2.h ++ [Event.rel r] = s.h ++ unitOf r evs
    rw [he]
    simp [unitOf]
  · rcases R with _ | ⟨g, o, m⟩ <;> exact a.stores

/-! ## A turn of the chunk loop -/

theorem off_toNat {c : Cfg} {r : Nat} {b : BlockOp} (h : (SeqPos.block b).sound c r) : (b.off c).toNat = chunkSize c * b.chunk := by
  have := b.size.isLt
  have h' : chunkSize c * b.chunk < b.size.toNat := h
  simp only [BlockOp.off, BlockOp.moved, BitVec.toNat_ofNat]
  exact Nat.mod_eq_of_lt (by omega)

theorem sz_toNat {c : Cfg} {r : Nat} {b : BlockOp} (h : (SeqPos.block b).sound c r) : (b.sz c).toNat = bytesLeft c b := by
  have := b.size.isLt
  have h' : chunkSize c * b.chunk < b.size.toNat := h
  simp only [BlockOp.sz, BlockOp.moved, bytesLeft, BitVec.toNat_sub, BitVec.toNat_ofNat]
  omega

theorem chunkBytes_eq {c : Cfg} {r : Nat} {b : BlockOp} (h : (SeqPos.block b).sound c r) :
    chunkBytes c b = min (bytesLeft c b) (chunkSize c) := by
  unfold chunkBytes
  rw [sz_toNat h]
  split <;> omega

/-- What a block operation may store to from its next chunk on: a read, to what it has still to move. -/
def BlockOp.stores (c : Cfg) (b : BlockOp) : Option (BufId × Nat × Nat) :=
  if b.write then none else some (b.buf, chunkSize c * b.chunk, bytesLeft c b)

/-- The transaction of a chunk, and `RETRY` of it, store in the chunk's bytes or nowhere. -/
theorem retry_chunkOp_stores {c : Cfg} {r : Nat} {b : BlockOp} (h : (SeqPos.block b).sound c r) (s : State) :
    OnlyIn (b.stores c) s (retry (chunkOp c b) s).2 := by
  unfold chunkOp BlockOp.stores
  split
  · exact retry_onlyAt (xblkWr_onlyAt 0 0 0 _ _ _ _) s
  · refine onlyAt_mono (retry_onlyAt (xblkRd_onlyAt _ _ _ _) s) (off_toNat h).ge ?_
    rw [off_toNat h, chunkBytes_eq h]
    omega

theorem chunkOp_bounded {c : Cfg} (hp : 1 ≤ c.dataPktSz) {r : Nat} {b : BlockOp} (h : (SeqPos.block b).sound c r) :
    Keeps (Bounded c (blockCalls c b.write (min (bytesLeft c b) (chunkSize c)))) (chunkOp c b) := by
  rw [← chunkBytes_eq h]
  unfold chunkOp
  split
  · rename_i hw
    rw [hw]
    exact xblkWr_bounded hp _ _ _ _
  · rename_i hw
    rw [Bool.not_eq_true] at hw
    rw [hw]
    exact xblkRd_bounded hp _ _ _ _

/-- Every way a turn of the chunk loop can end: the operation waits before its chunk; or the chunk has run as one locked unit and
the operation is over with a code, or stands before its next chunk. -/
inductive Turned (s : State) (r : Nat) (b : BlockOp) : State → Prop
  | waits : s.lock ≠ .free → Turned s r b (s.setSeq r (.block b))
  | ended {t : State} (c : Code) : LockedUnit r (chunkCalls s.cfg b.write (bytesLeft s.cfg b)) (b.stores s.cfg) s t →
      Turned s r b (t.report r (.code c))
  | goesOn {t : State} : LockedUnit r (chunkCalls s.cfg b.write (bytesLeft s.cfg b)) (b.stores s.cfg) s t →
      (SeqPos.block b.advance).sound s.cfg r → Turned s r b (t.setSeq r (.block b.advance))

/-- A failed read loses the region it has still to move, and a write loses nothing (44_bus R194, R195). -/
theorem endBlock_spec {c : Cfg} {r : Nat} {b : BlockOp} (h : (SeqPos.block b).sound c r) (failed : Bool) {s : State}
    (hc : s.cfg = c) : ∃ t, Account 0 (b.stores c) s t ∧ endBlock r b failed s = t.report r (.code s.acc) := by
  subst hc
  unfold endBlock
  split
  · rename_i hf
    have hw : b.write = false := by simp_all
    refine ⟨s.bufForget b.buf (b.off s.cfg).toNat (b.sz s.cfg).toNat, account_of (inside_of_eq rfl ⟨rfl, rfl, rfl, rfl, rfl, rfl, rfl, rfl⟩ rfl)
      (bounded_of_eq rfl rfl rfl rfl rfl) ?_, rfl⟩
    rw [off_toNat h, sz_toNat h, BlockOp.stores, hw]
    exact bufForget_onlyAt s _ _ _
  · exact ⟨s, account_refl _ s, rfl⟩

theorem loadBlock_account (R : Option (BufId × Nat × Nat)) (s : State) (b : BlockOp) : Account 0 R s (s.loadBlock b) :=
  account_of_eq ⟨rfl, rfl, rfl, rfl, rfl, rfl, rfl, rfl⟩ rfl rfl rfl rfl rfl rfl

/-- What follows a chunk's unit. -/
theorem afterChunk_turned {s t : State} {r : Nat} {b : BlockOp} (hb : (SeqPos.block b).sound s.cfg r)
    (hu : LockedUnit r (chunkCalls s.cfg b.write (bytesLeft s.cfg b)) (b.stores s.cfg) s t) (failed : Bool) :
    Turned s r b (afterChunk r b failed t) := by
  unfold afterChunk
  split
  · obtain ⟨u, hu', he⟩ := endBlock_spec hb failed hu.outside.cfg
    rw [he]
    exact .ended _ (lockedUnit_between (account_refl _ s) hu hu')
  · rename_i hn
    rw [hu.outside.cfg, sz_toNat hb] at hn
    refine .goesOn (lockedUnit_between (account_refl _ s) hu (loadBlock_account _ t _)) ?_
    show chunkSize s.cfg * (b.chunk + 1) < b.size.toNat
    unfold bytesLeft at hn
    rw [Nat.mul_add]
    omega

theorem dataPktSz_pos {c : Cfg} (h : c.wf = true) : 1 ≤ c.dataPktSz := ((cfg_wf_iff c).mp h).2.1

/-- A turn of the chunk loop from any sound position. -/
theorem chunkTurn_turned {s : State} {r : Nat} {b : BlockOp} (hc : s.cfg.wf = true) (hb : (SeqPos.block b).sound s.cfg r) :
    Turned s r b (chunkTurn r b s) := by
  rcases chunkTurn_spec r b s with ⟨hl, he⟩ | ⟨hl, he⟩ <;> rw [he]
  · exact .waits hl
  · have hu := lockedRetry_unit (s := s.loadBlock b) (r := r) hl (chunkOp_inside s.cfg b) (chunkOp_bounded (dataPktSz_pos hc) hb)
      (retry_chunkOp_stores hb _)
    rcases endChunk_spec r b (lockedRetry r (chunkOp s.cfg b) (s.loadBlock b)) with ⟨_, he⟩ | ⟨_, _, he⟩ <;> rw [he]
    all_goals
      refine afterChunk_turned hb (lockedUnit_between (loadBlock_account _ s b) hu ?_) _
      exact account_of_eq ⟨rfl, rfl, rfl, rfl, rfl, rfl, rfl, rfl⟩ rfl rfl rfl rfl rfl rfl

end Sys2Proof.Machine
end

section
/-! PROOFS. What an instruction can do, said once: `Executed` has one case for each way `exec` answers a next state. -/

namespace Sys2Proof.Machine

/-- Every way an instruction answers a next state.
* An operation of layers G, T or X: it appends bursts only for a requester that may drive the bus, and gives the issuer a result.
* `SET_CRC`; the lock taken; the lock given back (44_bus R190, R198).
* An operation that waits at its beginning for the lock.
* A register operation that has run as one locked unit.
* A block operation's first turn of the chunk loop. -/
inductive Executed (s : State) : Instr → State → Prop
  | internal {i : Instr} {t : State} (v : Result) : i.requester? = none → Account (mostEvents s.cfg i) (storedTo i) s t →
      (t.h = s.h ∨ s.mayDrive s.issuer = true) → Executed s i (t.report s.issuer v)
  | mode (off : Bool) : Executed s (.setCrc off) ({ s with crcOff := off }.report s.issuer .done)
  | acquired {r : Nat} : s.lock = .free → Executed s (.lockAcquire r) ((s.takeLock r).report r .done)
  | released {r : Nat} : s.lock = .held r → Executed s (.lockRelease r) ((s.dropLock r).report r .done)
  | waits {i : Instr} {r : Nat} : s.admits r → s.lock ≠ .free → waitsFor r i → Executed s i (s.setSeq r (.waiting i))
  | register {i : Instr} {r n : Nat} {t : State} (v : Result) : waitsFor r i → mostEvents s.cfg i = n + 2 →
      LockedUnit r n none s t → Executed s i (t.report r v)
  | block {i : Instr} {r : Nat} {b : BlockOp} {t : State} : s.admits r → isBlockOp i → i.requester? = some r →
      storedTo i = b.stores s.cfg → mostEvents s.cfg i = chunkCalls s.cfg b.write (bytesLeft s.cfg b) + 2 →
      (SeqPos.block b).sound s.cfg r → Turned s r b t → Executed s i t

theorem requester_of_waitsFor {r : Nat} {i : Instr} (h : waitsFor r i) : i.requester? = some r := by
  rcases h with ⟨_, rfl⟩ | ⟨_, _, rfl⟩ | rfl <;> rfl

theorem storedTo_of_waitsFor {r : Nat} {i : Instr} (h : waitsFor r i) : storedTo i = none := by
  rcases h with ⟨_, rfl⟩ | ⟨_, _, rfl⟩ | rfl <;> rfl

/-! ## Layers G, T and X -/

/-- An operation that stores to no host buffer. -/
theorem account_silent {n : Nat} {α : Type} {x : Op α} (s : State) (hi : Keeps Inside x) (hb : Keeps (Bounded s.cfg n) x)
    (hs : ∀ g a m, Keeps (OnlyAt g a m) x) : Account n none s (x s).2 :=
  account_of (hi s) (hb s) (hs 0 0 0 s)

/-- An operation run for the issuer on the bus, with its account. -/
theorem executed_of_runBus {α : Type} {s t : State} {i : Instr} {x : Op α} {res : α → Result} (h : runBus s x res = .next t)
    (hr : i.requester? = none) (ha : s.cfg.wf = true → Account (mostEvents s.cfg i) (storedTo i) s (x s).2) : Executed s i t := by
  obtain ⟨hbus, v, rfl⟩ := runBus_next h
  exact .internal v hr (ha hbus.1.1) (.inr hbus.2)

/-- The same behind the guards of a host buffer. -/
theorem executed_of_buffer {α : Type} {s t : State} {i : Instr} {x : Op α} {res : α → Result} {who : Nat} {buf : BufId}
    {off n : Nat} {w : Bool} (h : withBus s (withBuffer s who buf off n w (.next (conclude s.issuer res (x s)))) = .next t)
    (hr : i.requester? = none) (ha : s.cfg.wf = true → Account (mostEvents s.cfg i) (storedTo i) s (x s).2) : Executed s i t := by
  obtain ⟨hbus, hk⟩ := withBus_next h
  obtain ⟨_, hk⟩ := withBuffer_next hk
  exact executed_of_runBus ((runBus_of_onBus hbus x res).trans hk) hr ha

theorem command_account (s : State) (c : CmdName) (adr dat sz : Word) (clk : Bool) :
    Account 1 none s (command c adr dat sz clk s).2 :=
  account_silent s (inside_of_within (command_within c adr dat sz clk)) (command_bounded s.cfg c adr dat sz clk)
    fun g a m => command_onlyAt g a m c adr dat sz clk

theorem awaitByte_account (s : State) (accept : Byte → Bool) (cause : Byte → Cause) :
    Account (s.cfg.rspRetry + 1) none s (awaitByte accept cause s).2 :=
  account_silent s (inside_of_within (awaitByte_within accept cause)) (awaitByte_bounded s.cfg accept cause)
    fun g a m => awaitByte_onlyAt g a m accept cause

theorem sendHeader_account (s : State) (order : BitVec 2) : Account 1 none s (sendHeader order s).2 :=
  account_silent s (inside_of_within (sendHeader_within order)) (sendHeader_bounded s.cfg order)
    fun g a m => sendHeader_onlyAt g a m order

/-- Layer G sets the register `CRC` and draws, nothing else. -/
theorem generator_account (s : State) (v : Crc) (d : Nat) : Account 0 none s { s with crc := v, draws := d } :=
  account_of_eq ⟨rfl, rfl, rfl, rfl, rfl, rfl, rfl, rfl⟩ rfl rfl rfl rfl rfl rfl

theorem executed_of_generator {s t : State} {i : Instr} {c : Crc} {v : Result}
    (h : whenAdmitted s.issuer s (.next ({ s with crc := c }.report s.issuer v)) = .next t) (hr : i.requester? = none)
    (hn : mostEvents s.cfg i = 0) (hs : storedTo i = none) : Executed s i t := by
  obtain ⟨_, hk⟩ := admit_next h
  cases hk
  exact .internal v hr (hn ▸ hs ▸ generator_account s c s.draws) (.inl rfl)

/-! ## Layer B -/

/-- A register operation once admitted: it waits, or it runs as one locked unit. -/
theorem executed_of_register {α : Type} {s t : State} {i : Instr} {r n : Nat} {x : Op α} {v : Result}
    (h : whenAdmitted r s (.next (if s.lock = .free then (lockedRetry r x s).2.report r v else s.setSeq r (.waiting i))) = .next t)
    (hw : waitsFor r i) (hn : mostEvents s.cfg i = retryCalls s.cfg n + 2) (hi : Keeps Inside x)
    (hb : s.cfg.wf = true → Keeps (Bounded s.cfg n) x) (hs : ∀ g a m, Keeps (OnlyAt g a m) x) : Executed s i t := by
  obtain ⟨ha, hk⟩ := admit_next h
  cases hk
  split
  · rename_i hfree
    exact .register v hw hn (lockedRetry_unit hfree hi (hb ha.1) (retry_onlyAt (hs 0 0 0) _))
  · rename_i hheld
    exact .waits ha hheld hw

/-- A block operation once admitted: its first turn of the chunk loop. -/
theorem executed_of_block {s t : State} {i : Instr} {r : Nat} {w : Bool} {adr : Word} {buf : BufId} {size : Word} {writes : Bool}
    (h : whenAdmitted r s (withBuffer s r buf 0 size.toNat writes (.next (chunkTurn r (newBlock w adr buf size) s))) = .next t)
    (hi : isBlockOp i) (hr : i.requester? = some r) (hs : storedTo i = if w then none else some (buf, 0, size.toNat))
    (hn : mostEvents s.cfg i = chunkCalls s.cfg w size.toNat + 2) : Executed s i t := by
  obtain ⟨ha, hk⟩ := admit_next h
  obtain ⟨⟨hsize, _⟩, hk⟩ := withBuffer_next hk
  cases hk
  have hb : (SeqPos.block (newBlock w adr buf size)).sound s.cfg r := by
    show chunkSize s.cfg * 0 < size.toNat
    omega
  exact .block ha hi hr (by simpa [BlockOp.stores, newBlock, bytesLeft] using hs) (by simpa [newBlock, bytesLeft] using hn) hb
    (chunkTurn_turned ha.1 hb)

/-! ## Every instruction -/

/-- What an instruction that answers a next state has done. -/
theorem exec_executed {s t : State} {i : Instr} (h : exec i s = .next t) : Executed s i t := by
  cases i with
  | cmdDmaWrite | cmdDmaRead | cmdInternalWrite | cmdInternalRead | cmdTerminate | cmdRepeat | cmdDmaExtWrite | cmdDmaExtRead
  | cmdSingleWrite | cmdSingleRead | cmdReset => exact executed_of_runBus h rfl fun _ => command_account s _ _ _ _ _
  | rspEcho | rspStatus | dataRspHdr => exact executed_of_runBus h rfl fun _ => awaitByte_account s _ _
  | dataHdrFirst | dataHdrMiddle | dataHdrLast => exact executed_of_runBus h rfl fun _ => sendHeader_account s _
  | crc7Byte | crc7 | crc7Tx => exact executed_of_generator h rfl rfl rfl
  | crc7Check bs =>
    obtain ⟨ha, hk⟩ := admit_next h
    split at hk <;> cases hk
    · exact .internal _ rfl (generator_account s _ (s.draws + 1)) (.inl rfl)
    · exact .internal _ rfl (generator_account s _ s.draws) (.inl rfl)
  | spiCmd cmd adr dat sz clk =>
    exact executed_of_runBus h rfl fun _ => account_silent s (inside_of_within (spiCmd_within cmd adr dat sz clk))
      (spiCmd_bounded s.cfg cmd adr dat sz clk) fun g a m => spiCmd_onlyAt g a m cmd adr dat sz clk
  | spiCmdRsp cmd =>
    exact executed_of_runBus h rfl fun _ => account_silent s (inside_of_within (spiCmdRsp_within cmd))
      (spiCmdRsp_bounded s.cfg cmd) fun g a m => spiCmdRsp_onlyAt g a m cmd
  | spiDataRead buf off size clk =>
    exact executed_of_buffer h rfl fun hc => account_of ((spiDataRead_within _ _ clk s).toInside)
      (spiDataRead_bounded (dataPktSz_pos hc) (fits_host buf off _) clk s)
      (spiDataRead_onlyAt (d := .host buf off) ⟨rfl, le_refl _, le_refl _⟩ clk s)
  | spiDataWrite buf off size =>
    exact executed_of_buffer h rfl fun hc => account_silent s (inside_of_within (spiDataWrite_within buf off _))
      (spiDataWrite_bounded (dataPktSz_pos hc) buf off _) fun g a m => spiDataWrite_onlyAt g a m buf off _
  | spiReset =>
    obtain ⟨hbus, hk⟩ := withBus_next h
    cases hk
    exact .internal _ rfl (account_of (spiReset_within s).toInside (spiReset_bounded s.cfg s) (spiReset_onlyAt 0 0 0 s)) (.inr hbus.2)
  | xregRd adr =>
    exact executed_of_runBus h rfl fun hc => account_silent s (xregRd_inside adr) (xregRd_bounded (dataPktSz_pos hc) adr)
      fun g a m => xregRd_onlyAt g a m adr
  | xregWr adr dat =>
    exact executed_of_runBus h rfl fun _ => account_silent s (xregWr_inside adr dat) (xregWr_bounded s.cfg adr dat)
      fun g a m => xregWr_onlyAt g a m adr dat
  | xblkRd adr buf off n =>
    exact executed_of_buffer h rfl fun hc => account_of (xblkRd_inside adr buf off _ s)
      (xblkRd_bounded (dataPktSz_pos hc) adr buf off _ s) (xblkRd_onlyAt adr buf off _ s)
  | xblkWr adr buf off n =>
    exact executed_of_buffer h rfl fun hc => account_silent s (xblkWr_inside adr buf off _)
      (xblkWr_bounded (dataPktSz_pos hc) adr buf off _) fun g a m => xblkWr_onlyAt g a m adr buf off _
  | readReg r adr =>
    exact executed_of_register h (.inl ⟨adr, rfl⟩) rfl (xregRd_inside adr) (fun hc => xregRd_bounded (dataPktSz_pos hc) adr)
      fun g a m => xregRd_onlyAt g a m adr
  | writeReg r adr dat =>
    exact executed_of_register h (.inr (.inl ⟨adr, dat, rfl⟩)) rfl (xregWr_inside adr dat) (fun _ => xregWr_bounded s.cfg adr dat)
      fun g a m => xregWr_onlyAt g a m adr dat
  | readBlock r adr buf size => exact executed_of_block h ⟨r, adr, buf, size, .inl rfl⟩ rfl rfl rfl
  | writeBlock r adr buf size => exact executed_of_block h ⟨r, adr, buf, size, .inr rfl⟩ rfl rfl rfl
  | setCrc off =>
    obtain ⟨_, hk⟩ := admit_next h
    split at hk <;> cases hk
    exact .mode off
  | lockAcquire r =>
    obtain ⟨ha, hk⟩ := admit_next h
    split at hk <;> cases hk
    · rename_i hfree
      exact .acquired hfree
    · rename_i hheld
      exact .waits ha hheld (.inr (.inr rfl))
  | lockRelease r =>
    obtain ⟨_, hk⟩ := admit_next h
    split at hk <;> cases hk
    rename_i hheld
    exact .released hheld

end Sys2Proof.Machine
end

section
/-! PROOFS. Steps (10_state R24, 60_exceptions R230): what runs at a step, by what the scheduler's requester has to do; and the state
after reset (R33). -/

namespace Sys2Proof.Machine

/-! ## What a step runs -/

theorem turn_of_sched {s : State} {q : Nat} {sched : List Nat} (h : s.sched = q :: sched) :
    s.turn = (q, { s with sched := sched }) := by
  simp [State.turn, h]

/-- With the turn scripted, a step is that requester's. -/
theorem step_of_sched {s : State} {q : Nat} {sched : List Nat} (hw : s.cfg.wf = true) (h : s.sched = q :: sched) :
    step s = stepOf q { s with sched := sched } := by
  simp [step, hw, turn_of_sched h]

theorem stepOf_of_request {s : State} {q : Nat} {x : Request} {port : List Request} {i : Instr} (hn : s.seqOf q = none)
    (hx : takeRequest q s.port = some (x, port)) (hi : decodeIn s.cfg.opc x.space x.word = .ok i) (hq : issuedBy q i = true) :
    stepOf q s = exec i { s with port := port, issuer := q } := by
  simp [stepOf, State.fetch, hn, hx, hi, hq]

theorem stepOf_of_waiting {s : State} {q : Nat} {i : Instr} (h : s.seqOf q = some (.waiting i)) :
    stepOf q s = exec i (s.resume q) := by
  simp [stepOf, h]

theorem stepOf_of_block {s : State} {q : Nat} {b : BlockOp} (h : s.seqOf q = some (.block b)) :
    stepOf q s = .next (chunkTurn q b (s.resume q)) := by
  simp [stepOf, h]

theorem takeRequest_eq_none {q : Nat} {port : List Request} (h : ∀ x ∈ port, x.who ≠ q) : takeRequest q port = none := by
  induction port with
  | nil => rfl
  | cons x rest ih =>
    obtain ⟨hx, hrest⟩ := List.forall_mem_cons.mp h
    simp [takeRequest, hx, ih hrest]

theorem stepOf_of_nothing {s : State} {q : Nat} (hn : s.seqOf q = none) (h : ∀ x ∈ s.port, x.who ≠ q) : stepOf q s = .next s := by
  simp [stepOf, State.fetch, hn, takeRequest_eq_none h]

/-- A requester taken out of the sequencer has nothing in progress. -/
theorem lookup_filter_ne (l : List (Nat × SeqPos)) (q : Nat) : (l.filter (fun x => decide (x.1 ≠ q))).lookup q = none := by
  simp only [List.lookup_eq_none_iff, List.mem_filter, decide_eq_true_eq, and_imp]
  intro x _ hx
  simpa using hx.symm

/-! ## A table word -/

theorem decodeIn_of_tableWord {nbits w : Nat} {i : Instr} (h : decodeTableWord nbits w = some i) :
    decodeIn defaultOpc (layoutSpace (layoutWord nbits w)) (layoutWord nbits w) = .ok i := by
  unfold decodeTableWord at h
  split at h <;> simp_all

theorem wordIssuer_of_decode {s : State} {nbits w : Nat} {i : Instr} (h : decodeTableWord nbits w = some i) :
    wordIssuer s nbits w = i.requester?.getD s.issuer := by
  simp [wordIssuer, h]

/-- An instruction is its own requester's to issue. -/
theorem issuedBy_getD (i : Instr) (r : Nat) : issuedBy (i.requester?.getD r) i = true := by
  unfold issuedBy
  cases i.requester? <;> simp

theorem step_withFetchWord {s : State} {nbits w : Nat} {i : Instr} (hw : s.cfg.wf = true) (ho : s.cfg.opc = defaultOpc)
    (h : decodeTableWord nbits w = some i) :
    step (s.withFetchWord nbits w) = exec i { s with
      issuer := i.requester?.getD s.issuer
      seqs := s.seqs.filter (fun x => decide (x.1 ≠ i.requester?.getD s.issuer)) } := by
  have hdecode := decodeIn_of_tableWord h
  rw [← ho] at hdecode
  rw [State.withFetchWord, wordIssuer_of_decode h]
  refine Eq.trans (step_of_sched ?_ rfl) (stepOf_of_request ?_ (if_pos rfl) ?_ (issuedBy_getD i _))
  · exact hw
  · exact lookup_filter_ne s.seqs _
  · exact hdecode

/-- Settles O55: each case is the branch of `stepOf` that `SEQ` and the request port choose. -/
theorem stepRunsDecodedInstruction : Obligations.StepRunsDecodedInstruction := by
  refine ⟨fun s q sched hw hs => ⟨fun x port i hn hx hi hq => ?_, fun i hi => ?_, fun b hb => ?_, fun hn hp => ?_⟩,
    fun s nbits w i hw ho h => step_withFetchWord hw ho h⟩ <;> rw [step_of_sched hw hs]
  · exact stepOf_of_request hn hx hi hq
  · exact stepOf_of_waiting hi
  · exact stepOf_of_block hb
  · exact stepOf_of_nothing hn hp

/-! ## Reset -/

/-- Settles O54: every field named is the one `State.reset` gives. -/
theorem resetState : Obligations.ResetState := ⟨rfl, rfl, rfl, rfl, rfl, rfl⟩

/-- Settles O56: the history is empty and the lock free, no buffer holds a byte, nothing is in progress. -/
theorem soundAtReset : Obligations.SoundAtReset where
  history := rfl
  memory := List.Pairwise.nil
  commandBuffer := ⟨rfl, Nat.zero_le 9⟩
  temporary := rfl
  rising := List.Pairwise.nil
  positions := fun _ hx => absurd hx List.not_mem_nil

end Sys2Proof.Machine
end

section
/-! PROOFS. What a step keeps (10_state R20 to R26, 20_memory R57, R62, 44_bus R190): `Stepped` says once what a step can do,
`Turn` what any of that leaves, and the invariant, the shape of a step's events and the frame follow from `Turn`. -/

namespace Sys2Proof.Machine

/-! ## The sequencer -/

/-- The part of the invariant that is about the sequencer. -/
def State.SeqSound (s : State) : Prop :=
  s.seqs.Pairwise (fun x y => x.1 < y.1) ∧ ∀ x ∈ s.seqs, x.1 < s.cfg.nreq ∧ x.2.sound s.cfg x.1

theorem mem_seqInsert {l : List (Nat × SeqPos)} {r : Nat} {p : SeqPos} {x : Nat × SeqPos} (h : x ∈ seqInsert l r p) :
    x = (r, p) ∨ x ∈ l := by
  induction l with
  | nil => exact .inl (by simpa [seqInsert] using h)
  | cons y l ih =>
    obtain ⟨q, z⟩ := y
    simp only [seqInsert] at h
    split_ifs at h
    · exact List.mem_cons.mp h
    · exact (List.mem_cons.mp h).imp id (List.mem_cons_of_mem _)
    · rcases List.mem_cons.mp h with rfl | h
      · exact .inr List.mem_cons_self
      · exact (ih h).imp id (List.mem_cons_of_mem _)

theorem seqInsert_rising {l : List (Nat × SeqPos)} (h : l.Pairwise (fun x y => x.1 < y.1)) (r : Nat) (p : SeqPos) :
    (seqInsert l r p).Pairwise (fun x y => x.1 < y.1) := by
  induction l with
  | nil => exact List.pairwise_singleton _ _
  | cons y l ih =>
    obtain ⟨q, z⟩ := y
    obtain ⟨hq, hl⟩ := List.pairwise_cons.mp h
    simp only [seqInsert]
    split_ifs with h1 h2
    · exact List.pairwise_cons.mpr ⟨List.forall_mem_cons.mpr ⟨h1, fun c hc => h1.trans (hq c hc)⟩, h⟩
    · subst h2
      exact List.pairwise_cons.mpr ⟨hq, hl⟩
    · refine List.pairwise_cons.mpr ⟨fun c hc => ?_, ih hl⟩
      rcases mem_seqInsert hc with rfl | hc
      · show q < r
        omega
      · exact hq c hc

theorem setSeq_seqSound {s : State} {r : Nat} {p : SeqPos} (h : s.SeqSound) (hr : r < s.cfg.nreq) (hp : p.sound s.cfg r) :
    (s.setSeq r p).SeqSound := by
  refine ⟨seqInsert_rising h.1 r p, fun x hx => ?_⟩
  rcases mem_seqInsert hx with rfl | hx
  · exact ⟨hr, hp⟩
  · exact h.2 x hx

theorem seqOf_sound {s : State} {r : Nat} {p : SeqPos} (h : s.SeqSound) (hp : s.seqOf r = some p) :
    r < s.cfg.nreq ∧ p.sound s.cfg r := by
  obtain ⟨l₁, l₂, he, _⟩ := List.lookup_eq_some_iff.mp hp
  exact h.2 (r, p) (by simp [he])

/-! ## The lock after a history -/

/-- Bursts are legal under a held lock, and with one requester under a free one (70_reset R253). -/
theorem foldl_bursts {nreq : Nat} {l : Lock} {evs : List Event} (h : ∀ e ∈ evs, e.isBurst = true)
    (hl : l = .free → nreq ≤ 1) : evs.foldl (lockNext nreq) (some l) = some l := by
  induction evs with
  | nil => rfl
  | cons e evs ih =>
    obtain ⟨he, hevs⟩ := List.forall_mem_cons.mp h
    have hnext : lockNext nreq (some l) e = some l := by
      cases e <;> cases l <;> simp_all [lockNext, Event.isBurst]
    rw [List.foldl_cons, hnext, ih hevs]

/-- One locked unit from a free lock leaves it free (20_memory R57). -/
theorem foldl_unitOf {nreq r : Nat} {inner : List Event} (h : ∀ e ∈ inner, e.isBurst = true) :
    (unitOf r inner).foldl (lockNext nreq) (some .free) = some .free := by
  have hin : inner.foldl (lockNext nreq) (some (.held r)) = some (.held r) := foldl_bursts h (by simp)
  simp [unitOf, lockNext, hin]

/-! ## A turn of one requester -/

/-- What a step of requester `q` leaves, whatever it runs, storing in the region `R` at most. -/
structure Turn (s : State) (q : Nat) (R : Option (BufId × Nat × Nat)) (t : State) : Prop where
  cfg : t.cfg = s.cfg
  lock : t.lock = s.lock ∨ (s.lock = .free ∧ t.lock = .held q) ∨ (s.lock = .held q ∧ t.lock = .free)
  events : ∃ evs, t.h = s.h ++ evs ∧ oneUnit s q evs ∧ evs.foldl (lockNext s.cfg.nreq) (some s.lock) = some t.lock
  results : t.results = s.results ∨ ∃ v, t.results = s.results ++ [(q, v)]
  stores : OnlyIn R s t
  sized : s.Sized → t.Sized
  seqs : s.SeqSound → t.SeqSound

/-- A step keeps the invariant: the history and the lock by its events, the rest field by field. -/
theorem turn_sound {s t : State} {q : Nat} {R : Option (BufId × Nat × Nat)} (h : Turn s q R t) (hs : s.Sound) : t.Sound := by
  obtain ⟨hhist, hmem, ⟨hcb, hlen⟩, htmp, hrising, hpos⟩ := hs
  obtain ⟨evs, he, _, hlock⟩ := h.events
  obtain ⟨hcb', hlen', htmp'⟩ := h.sized ⟨hcb, hlen, htmp⟩
  obtain ⟨hrising', hpos'⟩ := h.seqs ⟨hrising, hpos⟩
  refine ⟨?_, onlyIn_wf h.stores hmem, ⟨hcb', hlen'⟩, htmp', hrising', hpos'⟩
  unfold lockOf at hhist ⊢
  rw [h.cfg, he, List.foldl_append, hhist, hlock]

/-- Nothing that outlives an operation changes but where the sequencer stands. -/
structure Quiet (s t : State) : Prop where
  cfg : t.cfg = s.cfg
  lock : t.lock = s.lock
  h : t.h = s.h
  results : t.results = s.results
  mem : t.mem = s.mem
  sized : s.Sized → t.Sized
  seqs : s.SeqSound → t.SeqSound

theorem quiet_trans {s t u : State} (a : Quiet s t) (b : Quiet t u) : Quiet s u :=
  ⟨b.cfg.trans a.cfg, b.lock.trans a.lock, b.h.trans a.h, b.results.trans a.results, b.mem.trans a.mem,
    fun h => b.sized (a.sized h), fun h => b.seqs (a.seqs h)⟩

theorem turn_of_quiet {s t : State} (a : Quiet s t) (q : Nat) (R : Option (BufId × Nat × Nat)) : Turn s q R t :=
  ⟨a.cfg, .inl a.lock, ⟨[], by simp [a.h], .inl rfl, by simp [a.lock]⟩, .inl a.results, onlyIn_of_eq a.mem, a.sized, a.seqs⟩

theorem turn_after_quiet {s s' t : State} {q : Nat} {R : Option (BufId × Nat × Nat)} (a : Quiet s s') (h : Turn s' q R t) :
    Turn s q R t where
  cfg := h.cfg.trans a.cfg
  lock := a.lock ▸ h.lock
  events := by simpa only [oneUnit, State.mayDrive, a.cfg, a.lock, a.h] using h.events
  results := a.results ▸ h.results
  stores := onlyIn_trans (onlyIn_of_eq a.mem) h.stores
  sized := fun hs => h.sized (a.sized hs)
  seqs := fun hs => h.seqs (a.seqs hs)

/-- The requester is given its result. -/
theorem turn_report {s t : State} {q : Nat} {R : Option (BufId × Nat × Nat)} (h : Turn s q R t) (hr : t.results = s.results)
    (v : Result) : Turn s q R (t.report q v) :=
  ⟨h.cfg, h.lock, h.events, .inr ⟨v, by simp [hr]⟩, onlyIn_trans h.stores (onlyIn_of_eq rfl), h.sized, h.seqs⟩

/-- The sequencer keeps the requester's operation. -/
theorem turn_setSeq {s t : State} {q : Nat} {R : Option (BufId × Nat × Nat)} (h : Turn s q R t) {p : SeqPos}
    (hq : q < s.cfg.nreq) (hp : p.sound s.cfg q) : Turn s q R (t.setSeq q p) :=
  ⟨h.cfg, h.lock, h.events, h.results, onlyIn_trans h.stores (onlyIn_of_eq rfl), h.sized,
    fun hs => setSeq_seqSound (h.seqs hs) (h.cfg ▸ hq) (h.cfg ▸ hp)⟩

theorem turn_refl (s : State) (q : Nat) (R : Option (BufId × Nat × Nat)) : Turn s q R s :=
  turn_of_quiet ⟨rfl, rfl, rfl, rfl, rfl, id, id⟩ q R

theorem seqSound_of_outside {s t : State} (h : s.SameOutside t) (hs : s.SeqSound) : t.SeqSound := by
  simpa only [State.SeqSound, h.seqs, h.cfg] using hs

theorem turn_of_account {s t : State} {q n : Nat} {R : Option (BufId × Nat × Nat)} (a : Account n R s t)
    (h : t.h = s.h ∨ s.mayDrive q = true) : Turn s q R t := by
  refine ⟨a.outside.cfg, .inl a.outside.lock, ?_, .inl a.results, a.stores, a.sized, seqSound_of_outside a.outside⟩
  rw [a.outside.lock]
  rcases h with h | h
  · exact ⟨[], by simp [h], .inl rfl, rfl⟩
  · obtain ⟨evs, he, hb, _⟩ := account_bursts a
    exact ⟨evs, he, .inr (.inl ⟨hb, h⟩), foldl_bursts hb fun hl => by simpa [State.mayDrive, hl] using h⟩

theorem turn_of_lockedUnit {s t : State} {q n : Nat} {R : Option (BufId × Nat × Nat)} (u : LockedUnit q n R s t) :
    Turn s q R t := by
  refine ⟨u.outside.cfg, .inl u.outside.lock, ?_, .inl u.results, u.stores, u.sized, seqSound_of_outside u.outside⟩
  obtain ⟨inner, he, hb, _⟩ := u.events
  refine ⟨unitOf q inner, he, .inr (.inr (.inr (.inr ⟨inner, hb, rfl, u.free⟩))), ?_⟩
  rw [u.outside.lock, u.free, foldl_unitOf hb]

theorem turn_of_turned {s t : State} {r : Nat} {b : BlockOp} (h : Turned s r b t) (hr : r < s.cfg.nreq)
    (hb : (SeqPos.block b).sound s.cfg r) : Turn s r (b.stores s.cfg) t := by
  cases h with
  | waits _ => exact turn_setSeq (turn_refl s r _) hr hb
  | ended c u => exact turn_report (turn_of_lockedUnit u) u.results _
  | goesOn u hb' => exact turn_setSeq (turn_of_lockedUnit u) hr hb'

theorem turn_of_crcOff (s : State) (q : Nat) (off : Bool) : Turn s q none { s with crcOff := off } :=
  turn_of_quiet (s := s) (t := { s with crcOff := off }) ⟨rfl, rfl, rfl, rfl, rfl, id, id⟩ q none

theorem turn_of_takeLock {s : State} {q : Nat} (h : s.lock = .free) : Turn s q none (s.takeLock q) where
  cfg := rfl
  lock := .inr (.inl ⟨h, rfl⟩)
  events := ⟨[.acq q], rfl, .inr (.inr (.inl ⟨rfl, h⟩)), by simp [h, lockNext]⟩
  results := .inl rfl
  stores := onlyIn_of_eq rfl
  sized := id
  seqs := id

theorem turn_of_dropLock {s : State} {q : Nat} (h : s.lock = .held q) : Turn s q none (s.dropLock q) where
  cfg := rfl
  lock := .inr (.inr ⟨h, rfl⟩)
  events := ⟨[.rel q], rfl, .inr (.inr (.inr (.inl ⟨rfl, h⟩))), by simp [h, lockNext]⟩
  results := .inl rfl
  stores := onlyIn_of_eq rfl
  sized := id
  seqs := id

/-- What an instruction leaves, with what it stores to. -/
theorem turn_of_executed {s t : State} {i : Instr} (h : Executed s i t) :
    Turn s (i.requester?.getD s.issuer) (storedTo i) t := by
  cases h with
  | internal v hr a hd =>
    rw [hr]
    exact turn_report (turn_of_account a hd) a.results v
  | mode off => exact turn_report (turn_of_crcOff s s.issuer off) rfl .done
  | acquired hl => exact turn_report (turn_of_takeLock hl) rfl .done
  | released hl => exact turn_report (turn_of_dropLock hl) rfl .done
  | waits ha _ hw =>
    rw [requester_of_waitsFor hw]
    exact turn_setSeq (turn_refl s _ _) ha.2.1 hw
  | register v hw _ u =>
    rw [requester_of_waitsFor hw, storedTo_of_waitsFor hw]
    exact turn_report (turn_of_lockedUnit u) u.results v
  | block ha _ hr hst _ hb hd =>
    rw [hr, hst]
    exact turn_of_turned hd ha.2.1 hb

/-! ## Every step -/

theorem turn_cfg (s : State) : s.turn.2.cfg = s.cfg := by rw [turn_spec]
theorem turn_port (s : State) : s.turn.2.port = s.port := by rw [turn_spec]
theorem turn_crcOff (s : State) : s.turn.2.crcOff = s.crcOff := by rw [turn_spec]
theorem turn_seqOf (s : State) (q : Nat) : s.turn.2.seqOf q = s.seqOf q := by
  rw [turn_spec]
  rfl

theorem turn_quiet (s : State) : Quiet s s.turn.2 := by
  rw [turn_spec]
  exact ⟨rfl, rfl, rfl, rfl, rfl, id, id⟩

/-- A requester's position is taken from the sequencer. -/
theorem resume_quiet (s : State) (q : Nat) : Quiet s (s.resume q) :=
  ⟨rfl, rfl, rfl, rfl, rfl, id, fun hs => ⟨hs.1.filter _, fun x hx => hs.2 x (List.mem_of_mem_filter hx)⟩⟩

/-- Every way a step from a sound state answers a next state; the requester whose turn it is
* has nothing to do,
* tries again the operation it waits with,
* takes a turn of its block operation,
* or issues its next request. -/
inductive Stepped (s : State) : State → Prop
  | idle : Stepped s s.turn.2
  | again {i : Instr} {t : State} : s.seqOf s.turn.1 = some (.waiting i) → waitsFor s.turn.1 i →
      Executed (s.turn.2.resume s.turn.1) i t → Stepped s t
  | chunk {b : BlockOp} {t : State} : s.seqOf s.turn.1 = some (.block b) → s.turn.1 < s.cfg.nreq →
      (SeqPos.block b).sound s.cfg s.turn.1 → Turned (s.turn.2.resume s.turn.1) s.turn.1 b t → Stepped s t
  | request {i : Instr} {t : State} {x : Request} {rest : List Request} : s.seqOf s.turn.1 = none →
      takeRequest s.turn.1 s.port = some (x, rest) → decodeIn s.cfg.opc x.space x.word = .ok i → issuedBy s.turn.1 i = true →
      Executed { s.turn.2 with port := rest, issuer := s.turn.1 } i t → Stepped s t

theorem step_stepped {s t : State} (hs : s.Sound) (h : step s = .next t) : Stepped s t := by
  have hseq : s.SeqSound := ⟨hs.rising, hs.positions⟩
  obtain ⟨hw, hcases⟩ := step_next h
  simp only [turn_seqOf] at hcases
  rcases hcases with ⟨_, _, rfl⟩ | ⟨i, hp, he⟩ | ⟨b, hp, rfl⟩ | ⟨i, u, hn, hf, he⟩
  · exact .idle
  · exact .again hp (seqOf_sound hseq hp).2 (exec_executed he)
  · obtain ⟨hq, hb⟩ := seqOf_sound hseq hp
    have hc : (s.turn.2.resume s.turn.1).cfg = s.cfg := turn_cfg s
    exact .chunk hp hq hb (chunkTurn_turned (hc ▸ hw) (hc ▸ hb))
  · obtain ⟨x, rest, hx, hi, hq, rfl⟩ := fetch_run hf
    rw [turn_port] at hx
    rw [turn_cfg] at hi
    exact .request hn hx hi hq (exec_executed he)

/-- Whose step it is when an instruction is its requester's to issue. -/
theorem requester_of_issuedBy {q : Nat} {i : Instr} (h : issuedBy q i = true) : i.requester?.getD q = q := by
  unfold issuedBy at h
  split at h <;> simp_all

/-! What a step may store to, by what the requester has to do. -/

theorem stepStores_of_waiting {s : State} {i : Instr} (h : s.seqOf s.turn.1 = some (.waiting i)) : s.stepStores = none := by
  simp [State.stepStores, h, SeqPos.block?]

theorem stepStores_of_block {s : State} {b : BlockOp} (h : s.seqOf s.turn.1 = some (.block b)) :
    s.stepStores = b.stores s.cfg := by
  simp [State.stepStores, h, SeqPos.block?, BlockOp.stores]

theorem stepStores_of_request {s : State} {x : Request} {rest : List Request} {i : Instr} (hn : s.seqOf s.turn.1 = none)
    (hx : takeRequest s.turn.1 s.port = some (x, rest)) (hi : decodeIn s.cfg.opc x.space x.word = .ok i) :
    s.stepStores = storedTo i := by
  simp [State.stepStores, hn, hx, hi]

/-- Every step is a turn of the requester the scheduler chose. -/
theorem turn_of_stepped {s t : State} (h : Stepped s t) : Turn s s.turn.1 s.stepStores t := by
  have hresume := quiet_trans (turn_quiet s) (resume_quiet s.turn.2 s.turn.1)
  cases h with
  | idle => exact turn_of_quiet (turn_quiet s) _ _
  | again hp hw he =>
    have hturn := turn_of_executed he
    rw [storedTo_of_waitsFor hw, requester_of_waitsFor hw] at hturn
    rw [stepStores_of_waiting hp]
    exact turn_after_quiet hresume hturn
  | chunk hp hq hb hd =>
    have hturn := turn_of_turned hd (hresume.cfg ▸ hq) (hresume.cfg ▸ hb)
    rw [hresume.cfg] at hturn
    rw [stepStores_of_block hp]
    exact turn_after_quiet hresume hturn
  | @request i t x rest hn hx hi hq he =>
    have hturn := turn_of_executed he
    rw [requester_of_issuedBy hq] at hturn
    rw [stepStores_of_request hn hx hi]
    have hport : Quiet s.turn.2 { s.turn.2 with port := rest, issuer := s.turn.1 } := ⟨rfl, rfl, rfl, rfl, rfl, id, id⟩
    exact turn_after_quiet (quiet_trans (turn_quiet s) hport) hturn

/-- Settles O57: a step is a `Turn`, and a `Turn` keeps the invariant. -/
theorem stepKeepsSound : Obligations.StepKeepsSound := fun _ _ hs h => turn_sound (turn_of_stepped (step_stepped hs h)) hs

/-- Settles O58: the events and results of a `Turn`. -/
theorem stepIsAtMostOneUnit : Obligations.StepIsAtMostOneUnit := by
  intro s t hs h
  have hturn := turn_of_stepped (step_stepped hs h)
  obtain ⟨evs, he, hunit, _⟩ := hturn.events
  exact ⟨evs, he, hunit, hturn.results⟩

/-! ## What is changed by whom -/

theorem turned_crcOff {s t : State} {r : Nat} {b : BlockOp} (h : Turned s r b t) : t.crcOff = s.crcOff := by
  cases h with
  | waits _ => rfl
  | ended _ u => exact u.outside.crcOff
  | goesOn u _ => exact u.outside.crcOff

/-- The mode is `SET_CRC`'s alone to change (10_state R25). -/
theorem executed_crcOff {s t : State} {i : Instr} (h : Executed s i t) : t.crcOff = s.crcOff ∨ i = .setCrc t.crcOff := by
  cases h with
  | internal _ _ a _ => exact .inl a.outside.crcOff
  | mode off => exact .inr rfl
  | register _ _ _ u => exact .inl u.outside.crcOff
  | block _ _ _ _ _ _ hd => exact .inl (turned_crcOff hd)
  | acquired _ | released _ | waits _ _ _ => exact .inl rfl

theorem turned_lock {s t : State} {r : Nat} {b : BlockOp} (h : Turned s r b t) : t.lock = s.lock := by
  cases h with
  | waits _ => rfl
  | ended _ u => exact u.outside.lock
  | goesOn u _ => exact u.outside.lock

/-- After an operation the lock is as before, but for the two that take it and give it back (R26). -/
theorem executed_lock {s t : State} {i : Instr} (h : Executed s i t) :
    t.lock = s.lock ∨ (∃ r, i = .lockAcquire r ∧ s.lock = .free ∧ t.lock = .held r) ∨
      (∃ r, i = .lockRelease r ∧ s.lock = .held r ∧ t.lock = .free) := by
  cases h with
  | internal _ _ a _ => exact .inl a.outside.lock
  | register _ _ _ u => exact .inl u.outside.lock
  | block _ _ _ _ _ _ hd => exact .inl (turned_lock hd)
  | acquired hl => exact .inr (.inl ⟨_, rfl, hl, rfl⟩)
  | released hl => exact .inr (.inr ⟨_, rfl, hl, rfl⟩)
  | mode _ | waits _ _ _ => exact .inl rfl

/-- A step changes the mode only when it runs a request that is `SET_CRC`: an operation that waits is none. -/
theorem stepped_crcOff {s t : State} (h : Stepped s t) :
    t.crcOff = s.crcOff ∨ ∃ x rest, s.seqOf s.turn.1 = none ∧ takeRequest s.turn.1 s.port = some (x, rest) ∧
      decodeIn s.cfg.opc x.space x.word = .ok (.setCrc t.crcOff) := by
  cases h with
  | idle => exact .inl (turn_crcOff s)
  | again _ hw he =>
    rcases executed_crcOff he with hc | rfl
    · exact .inl (hc.trans (turn_crcOff s))
    · exact absurd (requester_of_waitsFor hw) nofun
  | chunk _ _ _ hd => exact .inl ((turned_crcOff hd).trans (turn_crcOff s))
  | @request i t x rest hn hx hi _ he =>
    rcases executed_crcOff he with hc | hc
    · exact .inl (hc.trans (turn_crcOff s))
    · exact .inr ⟨x, rest, hn, hx, hc ▸ hi⟩

theorem turn_grows {s t : State} {q : Nat} {R : Option (BufId × Nat × Nat)} (h : Turn s q R t) : s.h <+: t.h := by
  obtain ⟨evs, he, _⟩ := h.events
  exact ⟨evs, he.symm⟩

/-- Settles O59: an operation and a step are a `Turn` that stores to the region named; the mode and the lock case by case. -/
theorem operationsChangeOnlyWhatIsNamed : Obligations.OperationsChangeOnlyWhatIsNamed := by
  refine ⟨fun s t i h => ?_, fun s t hs h => ?_⟩
  · have he := exec_executed h
    have hturn := turn_of_executed he
    exact ⟨hturn.cfg, turn_grows hturn, executed_crcOff he, executed_lock he, onlyIn_sameBytes hturn.stores,
      fun _ _ _ => onlyIn_sameBytesBut hturn.stores⟩
  · have hst := step_stepped hs h
    have hturn := turn_of_stepped hst
    exact ⟨hturn.cfg, turn_grows hturn, stepped_crcOff hst, hturn.lock, onlyIn_sameBytes hturn.stores,
      fun _ _ _ => onlyIn_sameBytesBut hturn.stores⟩

end Sys2Proof.Machine
end

section
/-! PROOFS. Every operation ends (10_state R24, 60_exceptions R225, 43_transactions R176): the events of one instruction are counted, and
a block operation that the scheduler goes on turning to is over after at most its number of chunks. -/

namespace Sys2Proof.Machine

/-! ## One instruction -/

/-- The history `h'` is `h` with at most `n` events appended. -/
def Appended (n : Nat) (h h' : List Event) : Prop := ∃ evs, h' = h ++ evs ∧ evs.length ≤ n

theorem appended_refl (n : Nat) (h : List Event) : Appended n h h := ⟨[], by simp, Nat.zero_le n⟩

theorem appended_mono {n m : Nat} {h h' : List Event} (a : Appended n h h') (hm : n ≤ m) : Appended m h h' := by
  obtain ⟨evs, he, hn⟩ := a
  exact ⟨evs, he, hn.trans hm⟩

theorem appended_trans {n m : Nat} {h h' h'' : List Event} (a : Appended n h h') (b : Appended m h' h'') :
    Appended (n + m) h h'' := by
  obtain ⟨e1, rfl, h1⟩ := a
  obtain ⟨e2, rfl, h2⟩ := b
  exact ⟨e1 ++ e2, by simp, by simp; omega⟩

theorem appended_of_lockedUnit {r n : Nat} {R : Option (BufId × Nat × Nat)} {s t : State} (u : LockedUnit r n R s t) :
    Appended (n + 2) s.h t.h := by
  obtain ⟨inner, he, _, hn⟩ := u.events
  exact ⟨unitOf r inner, he, by simp [unitOf]; omega⟩

theorem appended_of_turned {s t : State} {r : Nat} {b : BlockOp} (h : Turned s r b t) :
    Appended (chunkCalls s.cfg b.write (bytesLeft s.cfg b) + 2) s.h t.h := by
  cases h with
  | waits _ => exact appended_refl _ _
  | ended _ u => exact (appended_of_lockedUnit u :)
  | goesOn u _ => exact (appended_of_lockedUnit u :)

/-- No instruction appends more events than R176 allows it. -/
theorem appended_of_executed {s t : State} {i : Instr} (h : Executed s i t) : Appended (mostEvents s.cfg i) s.h t.h := by
  cases h with
  | internal _ _ a _ =>
    obtain ⟨evs, he, _, hn⟩ := account_bursts a
    exact ⟨evs, he, hn⟩
  | mode _ => exact appended_refl _ _
  | @acquired r _ => exact ⟨[.acq r], rfl, le_refl 1⟩
  | @released r _ => exact ⟨[.rel r], rfl, le_refl 1⟩
  | waits _ _ _ => exact appended_refl _ _
  | register _ _ hn u => exact (hn ▸ appended_of_lockedUnit u :)
  | block _ _ _ _ hn _ hd => exact hn ▸ appended_of_turned hd

/-- The operation is over: it has given its one result, and the sequencer is as before. -/
def Over (s : State) (who : Nat) (t : State) : Prop := t.seqs = s.seqs ∧ ∃ v, t.results = s.results ++ [(who, v)]

/-- The sequencer keeps the requester's operation, which has given no result. -/
def Kept (s : State) (who : Nat) (t : State) : Prop := t.results = s.results ∧ (t.seqOf who).isSome = true

theorem over_report {s t : State} (hq : t.seqs = s.seqs) (hr : t.results = s.results) (who : Nat) (v : Result) :
    Over s who (t.report who v) := ⟨hq, v, by simp [hr]⟩

theorem kept_setSeq {s t : State} (hr : t.results = s.results) (who : Nat) (p : SeqPos) : Kept s who (t.setSeq who p) :=
  ⟨hr, by simp [seqOf_setSeq]⟩

theorem over_or_kept_of_turned {s t : State} {r : Nat} {b : BlockOp} (h : Turned s r b t) : Over s r t ∨ Kept s r t := by
  cases h with
  | waits _ => exact .inr (kept_setSeq rfl r _)
  | ended c u => exact .inl (over_report u.outside.seqs u.results r _)
  | goesOn u _ => exact .inr (kept_setSeq u.results r _)

/-- An instruction is over, or it is an operation of layer B that its requester's sequencer keeps: one that waits for the lock, or a
block operation with chunks to move. -/
theorem over_or_kept_of_executed {s t : State} {i : Instr} (h : Executed s i t) :
    Over s (i.requester?.getD s.issuer) t ∨
      (Kept s (i.requester?.getD s.issuer) t ∧ i.requester? = some (i.requester?.getD s.issuer) ∧ (s.lock = .free → isBlockOp i)) := by
  cases h with
  | internal v hr a _ =>
    rw [hr]
    exact .inl (over_report a.outside.seqs a.results _ v)
  | mode off => exact .inl (over_report rfl rfl s.issuer .done)
  | @acquired r _ => exact .inl (over_report rfl rfl r .done)
  | @released r _ => exact .inl (over_report rfl rfl r .done)
  | waits _ hl hw =>
    rw [requester_of_waitsFor hw]
    exact .inr ⟨kept_setSeq rfl _ _, rfl, fun hfree => absurd hfree hl⟩
  | register v hw _ u =>
    rw [requester_of_waitsFor hw]
    exact .inl (over_report u.outside.seqs u.results _ v)
  | block _ hi hr _ _ _ hd =>
    rw [hr]
    exact (over_or_kept_of_turned hd).imp id fun hk => ⟨hk, rfl, fun _ => hi⟩

/-! ## A block operation to its end -/

/-- The pieces of `len` bytes hold them all. -/
theorem le_mul_pieceCount {n : Nat} (hn : 1 ≤ n) (len : Nat) : len ≤ n * pieceCount n len := by
  have := Nat.lt_mul_div_succ (len + n - 1) hn
  unfold pieceCount
  rw [Nat.mul_add] at this
  omega

/-- Fewer bytes to move cost no more calls. -/
theorem chunkCalls_mono (c : Cfg) (w : Bool) {m n : Nat} (h : m ≤ n) : chunkCalls c w m ≤ chunkCalls c w n := by
  have hframes : frameCount c (min m (chunkSize c)) ≤ frameCount c (min n (chunkSize c)) :=
    Nat.div_le_div_right (by omega)
  refine Nat.mul_le_mul_left _ (Nat.add_le_add_right (Nat.add_le_add_left ?_ _) _)
  cases w
  · exact Nat.mul_le_mul_left _ hframes
  · exact Nat.mul_le_mul_left _ hframes

theorem chunkSize_pos {c : Cfg} (h : c.wf = true) : 1 ≤ chunkSize c := by
  have := ((cfg_wf_iff c).mp h).1
  unfold chunkSize
  omega

/-- From `s` to `u` requester `r`'s block operation has come to its end with a code, the lock is free again, and at most `n` events
have been appended. -/
structure BlockEnded (r n : Nat) (s u : State) : Prop where
  events : Appended n s.h u.h
  result : ∃ c, u.results = s.results ++ [(r, .code c)]
  idle : u.seqOf r = none
  free : u.lock = .free

/-- A chunk's unit after which the code is given. -/
theorem blockEnded_of_lockedUnit {r n m : Nat} {R : Option (BufId × Nat × Nat)} {s t : State} (u : LockedUnit r n R s t)
    (hidle : s.seqOf r = none) (c : Code) (hm : n + 2 ≤ m) : BlockEnded r m s (t.report r (.code c)) where
  events := appended_mono (appended_of_lockedUnit u :) hm
  result := ⟨c, by simp [u.results]⟩
  idle := by simpa [State.seqOf, u.outside.seqs] using hidle
  free := u.outside.lock.trans u.free

/-- A chunk's unit, and then, from a state that differs from its end in the sequencer and the scheduler alone, the rest. -/
theorem blockEnded_after_lockedUnit {r n m : Nat} {R : Option (BufId × Nat × Nat)} {s t t' u : State} (hu : LockedUnit r n R s t)
    (hh : t'.h = t.h) (hr : t'.results = t.results) (h : BlockEnded r m t' u) {k : Nat} (hk : n + 2 + m ≤ k) :
    BlockEnded r k s u where
  events := appended_mono (appended_trans (hh ▸ appended_of_lockedUnit hu) h.events) hk
  result := by rw [← hu.results, ← hr]; exact h.result
  idle := h.idle
  free := h.free

theorem run_succ {t u : State} (h : step t = .next u) (k : Nat) :
    Host.Core.run Sys2Proof.core (k + 1) t = Host.Core.run Sys2Proof.core k u := by
  have hc : Sys2Proof.core.step t = .next u := h
  simp only [Host.Core.run, hc]

/-- The most one step of a block operation of `size` bytes appends: the calls of its chunk and two lock events. -/
def chunkEvents (c : Cfg) (w : Bool) (size : Nat) : Nat := chunkCalls c w size + 2

/-- Where a block operation's next chunk begins, the scheduler having turned to its requester. -/
def State.atNextChunk (s : State) (r : Nat) (b : BlockOp) (sched : List Nat) : State :=
  ({ s.setSeq r (.block b) with sched := sched } : State).resume r

theorem step_nextChunk {s : State} {r : Nat} {b : BlockOp} {sched : List Nat} (hw : s.cfg.wf = true)
    (hs : s.sched = r :: sched) : step (s.setSeq r (.block b)) = .next (chunkTurn r b (s.atNextChunk r b sched)) :=
  (step_of_sched (s := s.setSeq r (.block b)) hw hs).trans (stepOf_of_block ((seqOf_setSeq s r r (.block b)).trans (if_pos rfl)))

/-- After a turn of the chunk loop from a free lock, with `m` more of the scheduler's turns, which is enough for the chunks left:
the operation ends within them. -/
theorem block_ends_of_turned {m r : Nat} {s t : State} {b : BlockOp} {sched : List Nat} (hw : s.cfg.wf = true)
    (hfree : s.lock = .free) (hidle : s.seqOf r = none) (hsched : s.sched = List.replicate m r ++ sched)
    (hm : b.size.toNat ≤ chunkSize s.cfg * (b.chunk + 1 + m)) (h : Turned s r b t) :
    ∃ u k, k ≤ m ∧ Host.Core.run Sys2Proof.core k t = .next u ∧
      BlockEnded r ((m + 1) * chunkEvents s.cfg b.write b.size.toNat) s u := by
  have hcalls : chunkCalls s.cfg b.write (bytesLeft s.cfg b) + 2 ≤ chunkEvents s.cfg b.write b.size.toNat :=
    Nat.add_le_add_right (chunkCalls_mono s.cfg b.write (Nat.sub_le _ _)) 2
  cases h with
  | waits hl => exact absurd hfree hl
  | ended c u =>
    exact ⟨_, 0, Nat.zero_le m, rfl, blockEnded_of_lockedUnit u hidle c (hcalls.trans (Nat.le_mul_of_pos_left _ m.succ_pos))⟩
  | @goesOn t u hb =>
    have hleft : chunkSize s.cfg * (b.chunk + 1) < b.size.toNat := hb
    cases m with
    | zero =>
      rw [Nat.add_zero] at hm
      omega
    | succ m =>
      have hcfg : (t.atNextChunk r b.advance (List.replicate m r ++ sched)).cfg = s.cfg := u.outside.cfg
      have hw' := hcfg ▸ hw
      have hstep := step_nextChunk (s := t) (r := r) (b := b.advance) (sched := List.replicate m r ++ sched) hw'
        (u.outside.sched.trans hsched)
      obtain ⟨v, k, hk, hrun, hend⟩ := block_ends_of_turned (m := m) hw' (u.outside.lock.trans u.free) (lookup_filter_ne _ r) rfl
        (by rw [hcfg]; show b.size.toNat ≤ chunkSize s.cfg * (b.chunk + 1 + 1 + m); rwa [Nat.add_right_comm _ 1 m])
        (chunkTurn_turned hw' (hcfg ▸ hb))
      rw [hcfg] at hend
      refine ⟨v, k + 1, Nat.succ_le_succ hk, (run_succ hstep k).trans hrun,
        blockEnded_after_lockedUnit (t' := t.atNextChunk r b.advance _) u rfl rfl hend ?_⟩
      show _ + (m + 1) * chunkEvents s.cfg b.write b.size.toNat ≤ (m + 1 + 1) * chunkEvents s.cfg b.write b.size.toNat
      rw [Nat.succ_mul (m + 1), Nat.add_comm]
      exact Nat.add_le_add_left hcalls _

/-- The request for a block operation. -/
theorem exec_block {s : State} {r : Nat} {w : Bool} {adr : Word} {buf : BufId} {size : Word} (ha : s.admits r)
    (hb : s.bufferReady r buf 0 size.toNat (!w)) :
    exec (if w then .writeBlock r adr buf size else .readBlock r adr buf size) s =
      .next (chunkTurn r (newBlock w adr buf size) s) := by
  cases w <;> exact (admit_of_admits ha _).trans (withBuffer_of_ready hb _)

/-- Settles O60: the first half from what an instruction can do, the second by the turns left to the scheduler. -/
theorem noFailurePathLoopsForEver : Obligations.NoFailurePathLoopsForEver := by
  refine ⟨fun s t i h => ?_, fun s r w adr buf size i sched ha hfree hb hi => ?_⟩
  · have he := exec_executed h
    obtain ⟨evs, hevs, hn⟩ := appended_of_executed he
    exact ⟨evs, hevs, hn, (over_or_kept_of_executed he).imp id fun ⟨⟨hr, hk⟩, hq, hl⟩ => ⟨hr, hk, hq, hl⟩⟩
  · intro K hsched
    subst hi
    have hsize : 1 ≤ size.toNat := hb.1
    have hC := chunkSize_pos ha.1
    have hmove : size.toNat ≤ chunkSize s.cfg * K := le_mul_pieceCount hC size.toNat
    have hpos : 0 < K := Nat.pos_of_mul_pos_left (hsize.trans hmove)
    have hK : K - 1 + 1 = K := Nat.sub_add_cancel hpos
    have hsound : (SeqPos.block (newBlock w adr buf size)).sound s.cfg r := by
      show chunkSize s.cfg * 0 < size.toNat
      omega
    obtain ⟨u, k, hk, hrun, hend⟩ := block_ends_of_turned ha.1 hfree ha.2.2 hsched
      (by show size.toNat ≤ chunkSize s.cfg * (0 + 1 + (K - 1)); rwa [Nat.zero_add, Nat.add_comm 1, hK])
      (chunkTurn_turned ha.1 hsound)
    obtain ⟨⟨evs, hevs, hn⟩, ⟨c, hc⟩, hidle, hfree'⟩ := hend
    rw [hK] at hn
    exact ⟨_, u, k, evs, c, exec_block ha hb, by omega, hrun, hevs, hn, hc, hidle, hfree'⟩

end Sys2Proof.Machine
end

section
/-! PROOFS. Buffers an operation may not use (20_memory R51, 70_reset R258; log entries 9, 16): what the guard of a buffer
refuses, whatever operation stands behind it. -/

namespace Sys2Proof.Machine

theorem withBuffer_of_short {s : State} {who : Nat} {buf : BufId} {off n : Nat} (hn : n ≠ 0)
    (hs : s.bufShort buf (off + n) = true) (w : Bool) (k : Answered) :
    withBuffer s who buf off n w k = .refused .bufferTooShort := by
  simp [withBuffer, hn, hs]

theorem withBuffer_of_conflict {s : State} {who : Nat} {buf : BufId} {off n : Nat} {w : Bool} (hn : n ≠ 0)
    (hs : s.bufShort buf (off + n) = false) (hc : s.bufConflict who buf w = true) (k : Answered) :
    withBuffer s who buf off n w k = .refused .bufferInUse := by
  simp [withBuffer, hn, hs, hc]

theorem mem_seqs_of_seqOf {s : State} {q : Nat} {p : SeqPos} (h : s.seqOf q = some p) : (q, p) ∈ s.seqs := by
  obtain ⟨l₁, l₂, hl, _⟩ := List.lookup_eq_some_iff.mp h
  simp [hl]

/-- Another requester's block operation keeps everyone else from a use of its buffer in which one of the two writes (R258). -/
theorem bufConflict_of_block {s : State} {who q : Nat} {p : SeqPos} {b : BlockOp} (hq : q ≠ who) (hp : s.seqOf q = some p)
    (hb : p.block? = some b) {w : Bool} (hw : w = true ∨ b.write = false) : s.bufConflict who b.buf w = true := by
  refine List.any_eq_true.mpr ⟨(q, p), mem_seqs_of_seqOf hp, ?_⟩
  rcases hw with hw | hw <;> simp [hq, hb, hw]

/-- Settles O29: each operation on a buffer passes `withBuffer` once it is admitted, and the guard refuses. -/
theorem unusableBuffersAreRefused : Obligations.UnusableBuffersAreRefused := by
  refine ⟨fun s buf off adr n clk hbus hn hs => ?_, fun s r buf adr size ha hn hs => ?_,
    fun s r q p b adr size ha hn hs hq hp hb => ?_, fun s q p b adr off n clk hbus hn hs hq hp hb => ?_⟩
  · have href : ∀ w k, withBus s (withBuffer s s.issuer buf off n.toNat w k) = .refused .bufferTooShort := fun w k =>
      (withBus_of_onBus hbus _).trans (withBuffer_of_short (BitVec.toNat_ne_iff_ne.mpr hn) hs w k)
    exact ⟨href _ _, href _ _, href _ _, href _ _⟩
  · have href : ∀ w k, whenAdmitted r s (withBuffer s r buf 0 size.toNat w k) = .refused .bufferTooShort := fun w k =>
      (admit_of_admits ha _).trans (withBuffer_of_short (BitVec.toNat_ne_iff_ne.mpr hn) (by rwa [Nat.zero_add]) w k)
    exact ⟨href _ _, href _ _⟩
  · have href : ∀ w k, w = true ∨ b.write = false →
        whenAdmitted r s (withBuffer s r b.buf 0 size.toNat w k) = .refused .bufferInUse := fun w k hw =>
      (admit_of_admits ha _).trans
        (withBuffer_of_conflict (BitVec.toNat_ne_iff_ne.mpr hn) (by rwa [Nat.zero_add]) (bufConflict_of_block hq hp hb hw) k)
    exact ⟨href _ _ (.inl rfl), fun hr => href _ _ (.inr hr)⟩
  · have href : ∀ w k, w = true ∨ b.write = false →
        withBus s (withBuffer s s.issuer b.buf off n.toNat w k) = .refused .bufferInUse := fun w k hw =>
      (withBus_of_onBus hbus _).trans
        (withBuffer_of_conflict (BitVec.toNat_ne_iff_ne.mpr hn) hs (bufConflict_of_block hq hp hb hw) k)
    exact ⟨href _ _ (.inl rfl), href _ _ (.inl rfl), fun hr => ⟨href _ _ (.inr hr), href _ _ (.inr hr)⟩⟩

end Sys2Proof.Machine
end

section
/-! PROOFS. Operations with every transport call answered (10_state R29, R30): `Plays` says of an operation that it succeeds,
which events it appends when the oracle answers as they record, and what becomes of the host buffers' bytes. One lemma for each
operation, in the order of the model's files. -/

namespace Sys2Proof.Machine

/-! ## Known bytes -/

/-- A region is known when each of its bytes is. -/
theorem known?_eq_some_iff {m : Memory} {buf : BufId} {n a : Nat} {bs : List Byte} :
    m.known? buf n a = some bs ↔ bs.length = n ∧ ∀ i, i < n → m.get? buf (a + i) = bs[i]? := by
  induction n generalizing a bs with
  | zero => simp [Memory.known?]
  | succ n ih =>
    rcases bs with _ | ⟨b, bs⟩
    · simp only [Memory.known?]
      split <;> simp
    · have hhead : m.known? buf (n + 1) a = some (b :: bs) ↔
          m.get? buf a = some b ∧ m.known? buf n (a + 1) = some bs := by
        simp only [Memory.known?]
        cases m.get? buf a <;> cases m.known? buf n (a + 1) <;> simp
      rw [hhead, ih]
      constructor
      · rintro ⟨hb, hl, hi⟩
        refine ⟨by simp [hl], fun i hlt => ?_⟩
        rcases i with _ | i
        · simpa using hb
        · simpa [Nat.add_assoc, Nat.add_comm 1] using hi i (by omega)
      · rintro ⟨hl, hi⟩
        refine ⟨by simpa using hi 0 (by omega), by simpa using hl, fun i hlt => ?_⟩
        simpa [Nat.add_assoc, Nat.add_comm 1] using hi (i + 1) (by omega)

theorem known?_take {m : Memory} {buf : BufId} {a : Nat} {bs : List Byte} (h : m.known? buf bs.length a = some bs) (n : Nat) :
    m.known? buf (bs.take n).length a = some (bs.take n) := by
  obtain ⟨_, hi⟩ := known?_eq_some_iff.mp h
  refine known?_eq_some_iff.mpr ⟨rfl, fun i hlt => ?_⟩
  rw [List.length_take] at hlt
  rw [hi i (by omega), List.getElem?_take_of_lt (by omega)]

theorem known?_drop {m : Memory} {buf : BufId} {a : Nat} {bs : List Byte} (h : m.known? buf bs.length a = some bs) {n : Nat}
    (hn : n ≤ bs.length) : m.known? buf (bs.drop n).length (a + n) = some (bs.drop n) := by
  obtain ⟨_, hi⟩ := known?_eq_some_iff.mp h
  refine known?_eq_some_iff.mpr ⟨rfl, fun i hlt => ?_⟩
  rw [List.length_drop] at hlt
  rw [Nat.add_assoc, hi (n + i) (by omega), List.getElem?_drop]

/-- What a write to another buffer leaves known. -/
theorem known?_writeRun_other (m : Memory) {g buf : BufId} (hg : g ≠ buf) (n a o : Nat) (bs : List Byte) :
    (m.writeRun buf o bs).known? g n a = m.known? g n a := by
  refine Option.ext fun ks => ?_
  simp [known?_eq_some_iff, get?_writeRun, hg]

/-- Two runs of bytes written one behind the other are one run. -/
theorem writeRun_append (m : Memory) (buf : BufId) (a : Nat) (xs ys : List Byte) :
    (m.writeRun buf a xs).writeRun buf (a + xs.length) ys = m.writeRun buf a (xs ++ ys) := by
  induction xs generalizing m a with
  | nil => rfl
  | cons x xs ih =>
    rw [List.length_cons, Nat.add_comm xs.length, ← Nat.add_assoc]
    exact ih _ _

/-! ## Scripts -/

theorem scriptOf_append (e1 e2 : List Event) : scriptOf (e1 ++ e2) = scriptOf e1 ++ scriptOf e2 := List.filterMap_append

/-- The lock events of a unit ask the transport for nothing. -/
theorem scriptOf_unitOf (r : Nat) (evs : List Event) : scriptOf (unitOf r evs) = scriptOf evs := by
  simp [scriptOf, unitOf, answerOf, List.filterMap_cons]

/-! ## Operations that play their events -/

/-- From `s` to `t` these events have happened, the oracle has been used up to `rest`, the buffers' bytes have become `m`, and
nothing outside the operation has changed. -/
structure Played (s t : State) (evs : List Event) (rest : List Answer) (m : Memory) : Prop where
  history : t.h = s.h ++ evs
  oracle : t.oracle = rest
  mem : t.mem = m
  results : t.results = s.results
  outside : s.SameOutside t

/-- Under the configuration `c` and the mode `off`, on the bytes `m`, an oracle that answers as `evs` records makes the operation
succeed with `a`, these events and the bytes `m'`. -/
def Plays (c : Cfg) (off : Bool) {α : Type} (x : Op α) (evs : List Event) (m m' : Memory) (a : α) : Prop :=
  ∀ s rest, s.cfg = c → s.crcOff = off → s.mem = m → s.oracle = scriptOf evs ++ rest →
    ∃ t, x s = (.ok a, t) ∧ Played s t evs rest m'

/-- An update of registers the frame does not name. -/
theorem played_of_eq {s t : State} (hh : t.h = s.h) (ho : t.oracle = s.oracle) (hm : t.mem = s.mem)
    (hr : t.results = s.results) (hs : s.SameOutside t) : Played s t [] s.oracle s.mem :=
  ⟨by simp [hh], ho, hm, hr, hs⟩

theorem played_trans {s t u : State} {e1 e2 : List Event} {r1 r2 : List Answer} {m1 m2 : Memory} (a : Played s t e1 r1 m1)
    (b : Played t u e2 r2 m2) : Played s u (e1 ++ e2) r2 m2 :=
  ⟨by rw [b.history, a.history, List.append_assoc], b.oracle, b.mem, b.results.trans a.results,
    sameOutside_trans a.outside b.outside⟩

section
variable {c : Cfg} {off : Bool} {α β : Type} {m m1 m2 : Memory}

theorem plays_give (a : α) : Plays c off (give a) [] m m a := fun s _ _ _ hm ho =>
  ⟨s, rfl, by simp, ho, hm, rfl, sameOutside_refl s⟩

theorem plays_andThen {x : Op α} {f : α → Op β} {e1 e2 : List Event} {a : α} {b : β} (hx : Plays c off x e1 m m1 a)
    (hf : Plays c off (f a) e2 m1 m2 b) : Plays c off (andThen x f) (e1 ++ e2) m m2 b := by
  intro s rest hc hoff hm ho
  rw [scriptOf_append, List.append_assoc] at ho
  obtain ⟨t, ht, hp⟩ := hx s _ hc hoff hm ho
  obtain ⟨u, hu, hq⟩ := hf t rest (hp.outside.cfg.trans hc) (hp.outside.crcOff.trans hoff) hp.mem hp.oracle
  exact ⟨u, (andThen_of_ok ht).trans hu, played_trans hp hq⟩

/-- An operation that begins by setting registers the frame does not name. -/
theorem plays_after {x y : Op α} {f : State → State} {evs : List Event} {a : α}
    (hf : ∀ s, Played s (f s) [] s.oracle s.mem) (hx : ∀ s, s.cfg = c → s.crcOff = off → s.mem = m → x s = y (f s))
    (hy : Plays c off y evs m m1 a) : Plays c off x evs m m1 a := by
  intro s rest hc hoff hm ho
  have hs := hf s
  obtain ⟨t, ht, hp⟩ := hy (f s) rest (hs.outside.cfg.trans hc) (hs.outside.crcOff.trans hoff) (hs.mem.trans hm)
    (hs.oracle.trans ho)
  exact ⟨t, (hx s hc hoff hm).trans ht, played_trans hs hp⟩

/-- An operation that looks at the configuration and the mode is the one it is under them. -/
theorem plays_congr {x y : Op α} {evs : List Event} {a : α} (hx : ∀ s, s.cfg = c → s.crcOff = off → s.mem = m → x s = y s)
    (hy : Plays c off y evs m m1 a) : Plays c off x evs m m1 a :=
  plays_after (f := id) (fun s => played_of_eq rfl rfl rfl rfl (sameOutside_refl s)) hx hy

theorem plays_assign {f : State → State} (hf : ∀ s, Played s (f s) [] s.oracle s.mem) :
    Plays c off (assign f) [] m m () := plays_after hf (fun _ _ _ _ => rfl) (plays_give ())

end

/-! ## Transport -/

theorem sendBurst_plays (c : Cfg) (off : Bool) (m : Memory) (bs : List Byte) :
    Plays c off (sendBurst bs) [.w bs true] m m () := fun s rest _ _ hm ho =>
  ⟨{ s with oracle := rest }.log (.w bs true), sendBurst_good ho bs, rfl, rfl, hm, rfl, ⟨rfl, rfl, rfl, rfl, rfl, rfl, rfl, rfl⟩⟩

theorem readBurst_plays (c : Cfg) (off : Bool) (m : Memory) (bs : List Byte) :
    Plays c off (readBurst bs.length) [.r bs.length (some bs)] m m bs := fun s rest _ _ hm ho =>
  ⟨{ s with oracle := rest }.log (.r bs.length (some bs)), readBurst_good ho rfl, rfl, rfl, hm, rfl,
    ⟨rfl, rfl, rfl, rfl, rfl, rfl, rfl, rfl⟩⟩

theorem readRsp_plays (c : Cfg) (off : Bool) (m : Memory) (b : Byte) : Plays c off readRsp (readsOf [b]) m m b :=
  fun s rest _ _ hm ho =>
    ⟨{ { s with oracle := rest }.log (.r 1 (some [b])) with rsp := b }, readRsp_good ho, rfl, rfl, hm, rfl,
      ⟨rfl, rfl, rfl, rfl, rfl, rfl, rfl, rfl⟩⟩

/-- A response loop ends with the awaited byte, after no more misses than it has retries. -/
theorem awaitLoop_plays (c : Cfg) (off : Bool) (m : Memory) {accept : Byte → Bool} (cause : Byte → Cause) {b : Byte}
    (hb : accept b = true) {misses : List Byte} (hmiss : ∀ x ∈ misses, accept x = false) {k : Nat} (hk : misses.length ≤ k) :
    Plays c off (awaitLoop accept cause k) (readsOf (misses ++ [b])) m m () := by
  induction misses generalizing k with
  | nil =>
    have hhit : ∀ f : Op Unit, Plays c off (if accept b then give () else f) [] m m () := fun f => by
      rw [if_pos hb]
      exact plays_give ()
    cases k with
    | zero => exact plays_andThen (readRsp_plays c off m b) (hhit _)
    | succ k => exact plays_andThen (readRsp_plays c off m b) (hhit _)
  | cons x misses ih =>
    obtain ⟨hx, hmiss⟩ := List.forall_mem_cons.mp hmiss
    cases k with
    | zero => exact absurd hk (by simp)
    | succ k =>
      refine plays_andThen (e2 := readsOf (misses ++ [b])) (readRsp_plays c off m x) ?_
      rw [if_neg (by simp [hx])]
      exact plays_andThen (e1 := []) (plays_assign fun s =>
        played_of_eq rfl rfl rfl rfl ⟨rfl, rfl, rfl, rfl, rfl, rfl, rfl, rfl⟩) (ih hmiss (by simpa using hk))

theorem awaitByte_plays (c : Cfg) (off : Bool) (m : Memory) {accept : Byte → Bool} (cause : Byte → Cause) {b : Byte}
    (hb : accept b = true) {misses : List Byte} (hmiss : ∀ x ∈ misses, accept x = false) (hk : misses.length ≤ c.rspRetry) :
    Plays c off (awaitByte accept cause) (readsOf (misses ++ [b])) m m () :=
  plays_after (f := fun s => { s with rk := 0 })
    (fun s => played_of_eq rfl rfl rfl rfl ⟨rfl, rfl, rfl, rfl, rfl, rfl, rfl, rfl⟩)
    (fun s hc _ _ => by subst hc; rfl) (awaitLoop_plays c off m cause hb hmiss hk)

/-! ## Commands -/

/-- The opcode byte of a command selects it (00_scope R7, 30_encoding R86). -/
theorem name?_code {o : OpcMap} (h : o.wf = true) (cmd : CmdName) : o.name? (o.code cmd) = some cmd := by
  have hn := List.nodup_reverse.mpr ((opcMap_wf_iff o).mp h).1
  simp only [OpcMap.values, List.reverse_cons, List.reverse_nil, List.nil_append, List.cons_append, List.nodup_cons,
    List.mem_cons, List.not_mem_nil, not_or, or_false] at hn
  cases cmd <;> simp [OpcMap.name?, OpcMap.code, hn]

/-- `CB` made ready holds the frame (30_encoding R71, R80). -/
theorem buildFrame_take (s : State) {body : List Byte} (h : body.length ≤ 8) :
    (s.buildFrame body).cb.take (s.buildFrame body).cbLen.toNat = frameBytes s.cfg s.crcOff body := by
  unfold State.buildFrame frameBytes
  split
  · exact loadFrame_take s (by omega)
  · exact loadFrame_take _ (by simp; omega)

theorem buildFrame_played (s : State) (body : List Byte) : Played s (s.buildFrame body) [] s.oracle s.mem := by
  refine played_of_eq ?_ ?_ ?_ (buildFrame_within s body).results (buildFrame_within s body).outside <;>
  · unfold State.buildFrame
    split <;> rfl

theorem command_plays {c : Cfg} (hw : c.opc.wf = true) (off : Bool) (m : Memory) (cmd : CmdName) (adr dat sz : Word) (clk : Bool) :
    Plays c off (command cmd adr dat sz clk) [.w (frameBytes c off (c.opc.code cmd :: payload cmd adr dat sz clk)) true] m m () := by
  refine plays_after (f := fun s => { s with cmd := c.opc.code cmd, clk := clk }.buildFrame (c.opc.code cmd :: payload cmd adr dat sz clk))
    (fun s => ?_) (fun s hc hoff _ => ?_) (sendBurst_plays c off m _)
  · have hset : Played s { s with cmd := c.opc.code cmd, clk := clk } [] s.oracle s.mem :=
      played_of_eq rfl rfl rfl rfl ⟨rfl, rfl, rfl, rfl, rfl, rfl, rfl, rfl⟩
    exact played_trans hset (buildFrame_played _ _)
  · subst hc hoff
    have hlen : (s.cfg.opc.code cmd :: payload cmd adr dat sz clk).length ≤ 8 := by
      have := npay_le cmd
      simp only [List.length_cons, payload_length]
      omega
    unfold command spiCmd
    rw [name?_code hw cmd]
    exact congrArg (sendBurst · _) (buildFrame_take { s with cmd := s.cfg.opc.code cmd, clk := clk } hlen)

theorem spiCmdRsp_plays (c : Cfg) (off : Bool) (m : Memory) (cmd : Byte) :
    Plays c off (spiCmdRsp cmd) (readsOf [cmd, 0x00]) m m () :=
  plays_andThen (e1 := readsOf [cmd]) (e2 := readsOf [0x00])
    (awaitByte_plays c off m (misses := []) _ (by simp) (by simp) (Nat.zero_le _))
    (awaitByte_plays c off m (misses := []) _ (by simp) (by simp) (Nat.zero_le _))

/-- A command frame accepted at once, and what follows it (43_transactions R171 to R174). -/
theorem plays_commandThen {c : Cfg} (hw : c.opc.wf = true) {off : Bool} {m m' : Memory} {β : Type} {cmd : CmdName} {adr dat sz : Word}
    {clk : Bool} {f : Unit → Op β} {evs : List Event} {b : β} (hf : Plays c off (f ()) evs m m' b) :
    Plays c off (andThen (command cmd adr dat sz clk) fun _ => andThen (spiCmdRsp (c.opc.code cmd)) f)
      (commandPhase c off (c.opc.code cmd :: payload cmd adr dat sz clk) ++ evs) m m' b := by
  rw [commandPhase, List.append_assoc]
  exact plays_andThen (command_plays hw off m cmd adr dat sz clk) (plays_andThen (spiCmdRsp_plays c off m _) hf)

end Sys2Proof.Machine
end

section
/-! PROOFS. Data phases and block transactions with every transport call answered (42_spi_data R150 to R152, 43_transactions R173 to
R175): the pieces a data phase makes of its bytes, and the events it plays for them. -/

namespace Sys2Proof.Machine

/-! ## Pieces -/

theorem piecesOf_nil (n k : Nat) : piecesOf n k [] = [] := by cases k <;> rfl

/-- The last piece. -/
theorem piecesOf_last {n k : Nat} {bs : List Byte} (hbs : bs ≠ []) (h : bs.length ≤ n) : piecesOf n (k + 1) bs = [bs] := by
  rw [piecesOf, if_neg hbs, List.take_of_length_le h, List.drop_of_length_le h, piecesOf_nil]

/-- A full piece, with more to come. -/
theorem piecesOf_more {n k : Nat} {bs : List Byte} (h : n < bs.length) :
    piecesOf n (k + 1) bs = bs.take n :: piecesOf n k (bs.drop n) :=
  if_neg (List.ne_nil_of_length_pos (by omega))

theorem piecesOf_ne_nil {n k : Nat} {bs : List Byte} (hbs : bs ≠ []) (hk : bs.length ≤ k) : piecesOf n k bs ≠ [] := by
  cases k with
  | zero => exact absurd (List.length_eq_zero_iff.mp (Nat.le_zero.mp hk)) hbs
  | succ k => simp [piecesOf, hbs]

/-- The pieces hold every byte once, in order (42_spi_data R152, 44_bus R196). -/
theorem piecesOf_flatten {n k : Nat} (hn : 1 ≤ n) {bs : List Byte} (hk : bs.length ≤ k) : (piecesOf n k bs).flatten = bs := by
  induction k generalizing bs with
  | zero => simp_all [piecesOf]
  | succ k ih =>
    unfold piecesOf
    split
    · simp_all
    · rw [List.flatten_cons, ih (by simp; omega), List.take_append_drop]

/-- A frame of a write data phase before others: the first is headed `f1`, a later one `f2` (R152). -/
theorem writePhase_cons (off : Bool) (b : List Byte) {rest : List (List Byte)} (h : rest ≠ []) :
    writePhase off (b :: rest) = writeFrameEvents off 0xF1 b ++ laterFrames off rest := by
  cases rest with
  | nil => exact absurd rfl h
  | cons x rest => rfl

theorem laterFrames_cons (off : Bool) (b : List Byte) {rest : List (List Byte)} (h : rest ≠ []) :
    laterFrames off (b :: rest) = writeFrameEvents off 0xF2 b ++ laterFrames off rest := by
  cases rest with
  | nil => exact absurd rfl h
  | cons x rest => rfl

/-! ## The data-frame loop -/

/-- One turn of the loop that both data phases run (R150, R151): a frame, `IX` and `REM` set, and the next turn if bytes are left. -/
def frameThen (x : Op Unit) (next : Nat → Nat → Op Unit) (ix rem : Nat) : Op Unit :=
  andThen x fun _ =>
    andThen (assign fun t => t.setPhase (ix + min rem t.cfg.dataPktSz) (rem - min rem t.cfg.dataPktSz)) fun _ t =>
      if rem - min rem t.cfg.dataPktSz = 0 then (.ok (), t)
      else next (ix + min rem t.cfg.dataPktSz) (rem - min rem t.cfg.dataPktSz) t

theorem readFrames_succ (d : Dest) (clk : Bool) (fuel ix rem : Nat) (s : State) :
    readFrames d clk (fuel + 1) ix rem s =
      frameThen (readFrame d clk ix (min rem s.cfg.dataPktSz)) (readFrames d clk fuel) ix rem s := rfl

theorem writeFrames_succ (buf : BufId) (o fuel ix rem : Nat) (s : State) :
    writeFrames buf o (fuel + 1) ix rem s =
      frameThen (writeFrame buf o ix rem (min rem s.cfg.dataPktSz)) (writeFrames buf o fuel) ix rem s := rfl

section
variable {c : Cfg} {off : Bool} {m m1 m2 : Memory} {buf : BufId} {o : Nat}

/-- `IX` and `REM` are no part of the frame. -/
theorem setPhase_played (s : State) (i n : Nat) : Played s (s.setPhase i n) [] s.oracle s.mem :=
  played_of_eq rfl rfl rfl rfl ⟨rfl, rfl, rfl, rfl, rfl, rfl, rfl, rfl⟩

theorem frameThen_plays_last {x : Op Unit} {evs : List Event} {rem : Nat} (hx : Plays c off x evs m m1 ())
    (hrem : rem ≤ c.dataPktSz) (next : Nat → Nat → Op Unit) (ix : Nat) : Plays c off (frameThen x next ix rem) evs m m1 () := by
  rw [← List.append_nil evs]
  refine plays_andThen hx (plays_andThen (e1 := []) (plays_assign fun s => setPhase_played s _ _)
    (plays_congr (fun s hc _ _ => ?_) (plays_give ())))
  rw [hc, if_pos (by omega)]
  rfl

theorem frameThen_plays_more {x : Op Unit} {next : Nat → Nat → Op Unit} {e1 e2 : List Event} {ix rem : Nat}
    (hx : Plays c off x e1 m m1 ()) (hrem : c.dataPktSz < rem)
    (hnext : Plays c off (next (ix + c.dataPktSz) (rem - c.dataPktSz)) e2 m1 m2 ()) :
    Plays c off (frameThen x next ix rem) (e1 ++ e2) m m2 () := by
  have hmin : min rem c.dataPktSz = c.dataPktSz := Nat.min_eq_right hrem.le
  refine plays_andThen hx (plays_andThen (e1 := []) (plays_assign fun s => setPhase_played s _ _)
    (plays_congr (fun s hc _ _ => ?_) hnext))
  rw [hc, hmin, if_neg (by omega)]

/-! ## Write data phases -/

theorem sendHeader_plays (c : Cfg) (off : Bool) (m : Memory) (order : BitVec 2) :
    Plays c off (sendHeader order) [.w [headerByte order] true] m m () :=
  plays_andThen (e1 := []) (plays_assign fun _ => played_of_eq rfl rfl rfl rfl ⟨rfl, rfl, rfl, rfl, rfl, rfl, rfl, rfl⟩)
    (sendBurst_plays c off m _)

/-- Bytes that all have a value are read without a draw. -/
theorem bufRead_plays {n : Nat} {bs : List Byte} (h : m.known? buf n o = some bs) : Plays c off (bufRead buf o n) [] m m bs :=
  plays_congr (fun s _ _ hm => by subst hm; simp [bufRead, readRun_known h, give]) (plays_give bs)

theorem sendTrailer_plays (c : Cfg) (off : Bool) (m : Memory) :
    Plays c off sendTrailer (if off then [] else [.w [0x00, 0x00] true]) m m () := by
  cases off
  · exact plays_congr (fun s _ ho _ => by simp [sendTrailer, writeTrailer, ho]) (sendBurst_plays c false m [0x00, 0x00])
  · exact plays_congr (fun s _ ho _ => by simp [sendTrailer, writeTrailer, ho, give]) (plays_give ())

theorem writeFrame_plays {ix : Nat} (rem : Nat) {body : List Byte} (h : m.known? buf body.length (o + ix) = some body) :
    Plays c off (writeFrame buf o ix rem body.length)
      (writeFrameEvents off (headerByte (orderOf c.dataPktSz ix rem)) body) m m () := by
  have hbody := plays_andThen (f := fun _ => sendTrailer) (sendBurst_plays c off m body) (sendTrailer_plays c off m)
  have hread := plays_andThen (f := fun bs => andThen (sendBurst bs) fun _ => sendTrailer) (bufRead_plays h) hbody
  have hframe := plays_andThen
    (f := fun _ => andThen (bufRead buf (o + ix) body.length) fun bs => andThen (sendBurst bs) fun _ => sendTrailer)
    (sendHeader_plays c off m (orderOf c.dataPktSz ix rem)) hread
  exact plays_after (f := fun s => { s with nb := BitVec.ofNat 14 body.length })
    (fun _ => played_of_eq rfl rfl rfl rfl ⟨rfl, rfl, rfl, rfl, rfl, rfl, rfl, rfl⟩) (fun s hc _ _ => by subst hc; rfl) hframe

/-- The last frame of a write data phase, or the only one. -/
theorem writeFrames_plays_last {ix : Nat} {bs : List Byte} (hlast : bs.length ≤ c.dataPktSz)
    (h : m.known? buf bs.length (o + ix) = some bs) (fuel : Nat) :
    Plays c off (writeFrames buf o (fuel + 1) ix bs.length) (writeFrameEvents off 0xF3 bs) m m () := by
  have hframe := writeFrame_plays (c := c) (off := off) bs.length h
  rw [orderOf, if_pos hlast] at hframe
  refine plays_congr (fun s hc _ _ => ?_) (frameThen_plays_last hframe hlast (writeFrames buf o fuel) ix)
  rw [writeFrames_succ, hc, Nat.min_eq_left hlast]

/-- A full frame of a write data phase, and the later ones. -/
theorem writeFrames_plays_more {fuel ix : Nat} {bs : List Byte} {evs : List Event} (hmore : c.dataPktSz < bs.length)
    (h : m.known? buf bs.length (o + ix) = some bs)
    (hnext : Plays c off (writeFrames buf o fuel (ix + c.dataPktSz) (bs.drop c.dataPktSz).length) evs m m ()) :
    Plays c off (writeFrames buf o (fuel + 1) ix bs.length)
      (writeFrameEvents off (if ix = 0 then 0xF1 else 0xF2) (bs.take c.dataPktSz) ++ evs) m m () := by
  have hframe := writeFrame_plays (c := c) (off := off) bs.length (known?_take h c.dataPktSz)
  have hheader : headerByte (orderOf c.dataPktSz ix bs.length) = if ix = 0 then 0xF1 else 0xF2 := by
    rw [orderOf, if_neg (by omega)]
    split <;> rfl
  rw [hheader, List.length_take, Nat.min_comm] at hframe
  rw [List.length_drop] at hnext
  refine plays_congr (fun s hc _ _ => ?_) (frameThen_plays_more hframe hmore hnext)
  rw [writeFrames_succ, hc]

/-- The frames of a write data phase after the first. -/
theorem writeFrames_plays_later (hp : 1 ≤ c.dataPktSz) {fuel ix : Nat} {bs : List Byte} (hix : ix ≠ 0) (hbs : bs ≠ [])
    (hfuel : bs.length ≤ fuel) (h : m.known? buf bs.length (o + ix) = some bs) :
    Plays c off (writeFrames buf o fuel ix bs.length) (laterFrames off (piecesOf c.dataPktSz fuel bs)) m m () := by
  induction fuel generalizing ix bs with
  | zero => exact absurd (List.length_eq_zero_iff.mp (Nat.le_zero.mp hfuel)) hbs
  | succ fuel ih =>
    rcases Nat.lt_or_ge c.dataPktSz bs.length with hmore | hlast
    · have hdrop : bs.drop c.dataPktSz ≠ [] := List.ne_nil_of_length_pos (by rw [List.length_drop]; omega)
      have hle : (bs.drop c.dataPktSz).length ≤ fuel := by rw [List.length_drop]; omega
      have hknown := known?_drop h hmore.le
      rw [Nat.add_assoc] at hknown
      have hplay := writeFrames_plays_more hmore h (ih (by omega) hdrop hle hknown)
      rwa [if_neg hix, ← laterFrames_cons off _ (piecesOf_ne_nil hdrop hle), ← piecesOf_more hmore] at hplay
    · rw [piecesOf_last hbs hlast]
      exact writeFrames_plays_last hlast h fuel

/-- The frames of a write data phase from the first on. -/
theorem writeFrames_plays (hp : 1 ≤ c.dataPktSz) {fuel : Nat} {bs : List Byte} (hbs : bs ≠ []) (hfuel : bs.length ≤ fuel)
    (h : m.known? buf bs.length o = some bs) :
    Plays c off (writeFrames buf o fuel 0 bs.length) (writePhase off (piecesOf c.dataPktSz fuel bs)) m m () := by
  cases fuel with
  | zero => exact absurd (List.length_eq_zero_iff.mp (Nat.le_zero.mp hfuel)) hbs
  | succ fuel =>
    rcases Nat.lt_or_ge c.dataPktSz bs.length with hmore | hlast
    · have hdrop : bs.drop c.dataPktSz ≠ [] := List.ne_nil_of_length_pos (by rw [List.length_drop]; omega)
      have hle : (bs.drop c.dataPktSz).length ≤ fuel := by rw [List.length_drop]; omega
      have hplay := writeFrames_plays_more (ix := 0) hmore h
        (writeFrames_plays_later (off := off) hp (by omega) hdrop hle (by rw [Nat.zero_add]; exact known?_drop h hmore.le))
      rwa [if_pos rfl, ← writePhase_cons off _ (piecesOf_ne_nil hdrop hle), ← piecesOf_more hmore] at hplay
    · rw [piecesOf_last hbs hlast]
      exact writeFrames_plays_last (ix := 0) hlast h fuel

/-- `SPI_DATA_WRITE` of bytes that all have a value (R151, R152). -/
theorem spiDataWrite_plays (hp : 1 ≤ c.dataPktSz) {bs : List Byte} (hbs : bs ≠ []) (h : m.known? buf bs.length o = some bs) :
    Plays c off (spiDataWrite buf o bs.length) (writePhase off (piecesOf c.dataPktSz bs.length bs)) m m () :=
  plays_after (f := fun s => s.setPhase 0 bs.length) (fun s => setPhase_played s _ _) (fun _ _ _ _ => rfl)
    (writeFrames_plays hp hbs (le_refl _) h)

/-! ## Read data phases -/

theorem discardTrailer_plays (c : Cfg) (off clk : Bool) (m : Memory) {trail : List Byte} (h : trail.length = 2) :
    Plays c off (discardTrailer clk) (if !off && !clk then [.r 2 (some trail)] else []) m m () := by
  have hread := readBurst_plays c off m trail
  rw [h] at hread
  cases hb : !off && !clk
  · exact plays_congr (fun s _ ho _ => by simp [discardTrailer, readTrailer, ho, hb, give]) (plays_give ())
  · exact plays_congr (fun s _ ho _ => by simp [discardTrailer, readTrailer, ho, hb])
      (plays_andThen (f := fun _ => give ()) (e2 := []) hread (plays_give ()))

/-- The bytes of a frame, stored in their place. -/
theorem plays_store (c : Cfg) (off : Bool) (m : Memory) (buf : BufId) (o ix : Nat) (bs : List Byte) :
    Plays c off (assign ((Dest.host buf o).store ix bs)) [] m (m.writeRun buf (o + ix) bs) () := fun s _ _ _ hm ho =>
  ⟨s.bufWrite buf (o + ix) bs, rfl, by simp, ho, by rw [← hm]; rfl, rfl, ⟨rfl, rfl, rfl, rfl, rfl, rfl, rfl, rfl⟩⟩

theorem readFrame_plays {clk : Bool} {f : SlaveFrame} (hf : f.accepted c.rspRetry) (ix : Nat) :
    Plays c off (readFrame (.host buf o) clk ix f.body.length) (f.events (!off && !clk)) m (m.writeRun buf (o + ix) f.body) () := by
  obtain ⟨hlen, hmiss, hheader, htrail⟩ := hf
  rw [SlaveFrame.events, List.append_assoc]
  refine plays_andThen (e1 := []) (plays_assign fun _ => played_of_eq rfl rfl rfl rfl ⟨rfl, rfl, rfl, rfl, rfl, rfl, rfl, rfl⟩)
    (plays_andThen (awaitByte_plays c off m _ (by simpa [isDataHeader] using hheader) (fun x hx => ?_) hlen)
      (plays_andThen (readBurst_plays c off m f.body)
        (plays_andThen (e1 := []) (plays_store c off m buf o ix f.body) (discardTrailer_plays c off clk _ htrail))))
  simpa [isDataHeader] using hmiss x hx

/-- The frames of a read data phase: their bodies land one behind the other (R150, R152). -/
theorem readFrames_plays (hp : 1 ≤ c.dataPktSz) {clk : Bool} {fuel ix : Nat} {bs : List Byte} {fs : List SlaveFrame} (hbs : bs ≠ [])
    (hfuel : bs.length ≤ fuel) (hfs : fs.map (fun f => f.body) = piecesOf c.dataPktSz fuel bs)
    (hacc : ∀ f ∈ fs, f.accepted c.rspRetry) :
    Plays c off (readFrames (.host buf o) clk fuel ix bs.length) (readPhase (!off && !clk) fs) m (m.writeRun buf (o + ix) bs) () := by
  induction fuel generalizing ix bs fs m with
  | zero => exact absurd (List.length_eq_zero_iff.mp (Nat.le_zero.mp hfuel)) hbs
  | succ fuel ih =>
    rcases Nat.lt_or_ge c.dataPktSz bs.length with hmore | hlast
    · rw [piecesOf_more hmore] at hfs
      obtain ⟨f, fs, rfl, hbody, hfs⟩ := List.map_eq_cons_iff.mp hfs
      obtain ⟨hf, hacc⟩ := List.forall_mem_cons.mp hacc
      have hlen : f.body.length = c.dataPktSz := by rw [hbody, List.length_take]; omega
      have hnext := ih (m := m.writeRun buf (o + ix) f.body) (ix := ix + c.dataPktSz)
        (List.ne_nil_of_length_pos (by rw [List.length_drop]; omega)) (by rw [List.length_drop]; omega) hfs hacc
      have hmem : (m.writeRun buf (o + ix) f.body).writeRun buf (o + (ix + c.dataPktSz)) (bs.drop c.dataPktSz) =
          m.writeRun buf (o + ix) bs := by
        rw [← Nat.add_assoc, ← hlen, writeRun_append, hlen, hbody, List.take_append_drop]
      rw [hmem, List.length_drop] at hnext
      refine plays_congr (fun s hc _ _ => ?_) (frameThen_plays_more (readFrame_plays hf ix) hmore hnext)
      rw [readFrames_succ, hc, Nat.min_eq_right hmore.le, hlen]
    · rw [piecesOf_last hbs hlast] at hfs
      obtain ⟨f, rfl, rfl⟩ := List.map_eq_singleton_iff.mp hfs
      have hplay := readFrame_plays (c := c) (off := off) (clk := clk) (m := m) (buf := buf) (o := o) (hacc f (by simp)) ix
      rw [readPhase, List.map_singleton, List.flatten_singleton]
      refine plays_congr (fun s hc _ _ => ?_) (frameThen_plays_last hplay hlast (readFrames (.host buf o) clk fuel) ix)
      rw [readFrames_succ, hc, Nat.min_eq_left hlast]

/-- `SPI_DATA_READ` answered by frames the block accepts (R150). -/
theorem spiDataRead_plays (hp : 1 ≤ c.dataPktSz) (clk : Bool) {bs : List Byte} {fs : List SlaveFrame} (hbs : bs ≠ [])
    (hfs : fs.map (fun f => f.body) = piecesOf c.dataPktSz bs.length bs) (hacc : ∀ f ∈ fs, f.accepted c.rspRetry) :
    Plays c off (spiDataRead (.host buf o) bs.length clk) (readPhase (!off && !clk) fs) m (m.writeRun buf o bs) () := by
  intro s rest hc hoff hm ho
  have hs := setPhase_played s 0 bs.length
  obtain ⟨t, ht, hp⟩ := readFrames_plays (ix := 0) (clk := clk) hp hbs (le_refl _) hfs hacc (s.setPhase 0 bs.length) rest hc hoff hm ho
  exact ⟨t, by simp only [spiDataRead, ht], played_trans hs hp⟩

/-! ## Block transactions -/

/-- The payload of an extended DMA command (30_encoding R77): the low 24 bits of the address and of the size. -/
theorem blockBody_eq (opcode : Byte) (adr : Word) (n : Nat) :
    opcode :: (low24 adr ++ low24 (BitVec.ofNat 32 n)) = blockBody opcode adr n := by
  have h : (BitVec.ofNat 32 n).extractLsb' 0 24 = BitVec.ofNat 24 n := by
    apply BitVec.eq_of_toNat_eq
    simp
  rw [blockBody, low24, low24, h]

theorem opc_wf (h : c.wf = true) : c.opc.wf = true := by
  obtain ⟨_, _, _, hnodup, hzero, _⟩ := (cfg_wf_iff c).mp h
  exact (opcMap_wf_iff c.opc).mpr ⟨hnodup, hzero⟩

theorem attempt_plays {α : Type} {x : Op α} {evs : List Event} {a : α} (h : Plays c off x evs m m1 a) (lost : State → State) :
    Plays c off (attempt lost x) evs m m1 a := by
  intro s rest hc hoff hm ho
  obtain ⟨t, ht, hp⟩ := h s rest hc hoff hm ho
  exact ⟨t, by simp only [attempt, ht], hp⟩

/-- `XBLK_WR` of bytes that all have a value (43_transactions R174). -/
theorem xblkWr_plays (hw : c.wf = true) (adr : Word) {bs : List Byte} (hbs : bs ≠ []) (h : m.known? buf bs.length o = some bs) :
    Plays c off (xblkWr adr buf o bs.length) (blockWriteEvents c off adr bs) m m () := by
  rw [blockWriteEvents, ← blockBody_eq]
  refine attempt_plays (plays_congr (fun s hc _ _ => ?_) (plays_commandThen (cmd := .dmaExtWrite) (dat := 0) (clk := false)
    (f := fun _ => spiDataWrite buf o bs.length) (opc_wf hw) (spiDataWrite_plays (dataPktSz_pos hw) hbs h))) id
  subst hc
  rfl

/-- `XBLK_RD` answered by frames the block accepts (R173). -/
theorem xblkRd_plays (hw : c.wf = true) (adr : Word) {bs : List Byte} {fs : List SlaveFrame} (hbs : bs ≠ [])
    (hfs : fs.map (fun f => f.body) = piecesOf c.dataPktSz bs.length bs) (hacc : ∀ f ∈ fs, f.accepted c.rspRetry) :
    Plays c off (xblkRd adr buf o bs.length) (blockReadEvents c off adr bs.length fs) m (m.writeRun buf o bs) () := by
  have hdata := spiDataRead_plays (off := off) (m := m) (buf := buf) (o := o) (dataPktSz_pos hw) false hbs hfs hacc
  rw [Bool.not_false, Bool.and_true] at hdata
  rw [blockReadEvents, ← blockBody_eq]
  refine attempt_plays (plays_congr (fun s hc _ _ => ?_) (plays_commandThen (cmd := .dmaExtRead) (dat := 0) (clk := false)
    (f := fun _ => spiDataRead (.host buf o) bs.length false) (opc_wf hw) hdata)) _
  subst hc
  rfl

/-! ## Retry and the lock -/

theorem attempts_pos (c : Cfg) : 0 < attempts c := by
  unfold attempts
  split <;> omega

/-- The first attempt that succeeds is the last (43_transactions R175). -/
theorem retryLoop_plays {α : Type} {x : Op α} {evs : List Event} {a : α} (h : Plays c off x evs m m1 a) (k : Nat) :
    Plays c off (retryLoop x (k + 1)) evs m m1 a := by
  intro s rest hc hoff hm ho
  obtain ⟨t, ht, hp⟩ := h s rest hc hoff hm ho
  exact ⟨t, by simp only [retryLoop, ht], hp⟩

theorem retry_plays {α : Type} {x : Op α} {evs : List Event} {a : α} (h : Plays c off x evs m m1 a) :
    Plays c off (retry x) evs m m1 a := by
  obtain ⟨k, hk⟩ := Nat.exists_eq_succ_of_ne_zero (attempts_pos c).ne'
  exact plays_after (f := fun s => { s with att := 0 })
    (fun _ => played_of_eq rfl rfl rfl rfl ⟨rfl, rfl, rfl, rfl, rfl, rfl, rfl, rfl⟩)
    (fun s hc _ _ => by rw [retry, hc, hk]) (retryLoop_plays h k)

/-- One locked unit from a free lock (44_bus R191 to R195). -/
theorem lockedRetry_plays {α : Type} {x : Op α} {evs : List Event} {a : α} (h : Plays c off x evs m m1 a) (r : Nat) {s : State}
    {rest : List Answer} (hc : s.cfg = c) (hoff : s.crcOff = off) (hm : s.mem = m) (hfree : s.lock = .free)
    (ho : s.oracle = scriptOf (unitOf r evs) ++ rest) :
    ∃ t, lockedRetry r x s = (.ok a, t) ∧ Played s t (unitOf r evs) rest m1 := by
  rw [scriptOf_unitOf] at ho
  obtain ⟨t, ht, hp⟩ := retry_plays h (s.takeLock r) rest hc hoff hm ho
  obtain ⟨hcfg, hcrc, _, hseqs, hlens, hport, hissuer, hsched⟩ := hp.outside
  refine ⟨t.dropLock r, by rw [lockedRetry, ht], ?_, hp.oracle, hp.mem, hp.results,
    ⟨hcfg, hcrc, hfree.symm, hseqs, hlens, hport, hissuer, hsched⟩⟩
  simp [hp.history, unitOf]

end

end Sys2Proof.Machine
end

section
/-! PROOFS. Block operations with every transport call answered (44_bus R194 to R196): a chunk's turn, the chunks of a block operation
one after the other as the scheduler turns to its requester, and the round trip of 20_memory R66. -/

namespace Sys2Proof.Machine

/-! ## One chunk -/

section
variable {c : Cfg} {off : Bool} {m m1 : Memory} {r : Nat} {b : BlockOp}

theorem sound_of_bytesLeft (h : 0 < bytesLeft c b) : (SeqPos.block b).sound c r := by
  show chunkSize c * b.chunk < b.size.toNat
  unfold bytesLeft at h
  omega

theorem bytesLeft_advance : bytesLeft c b.advance = bytesLeft c b - chunkSize c := by
  unfold bytesLeft
  rw [Nat.sub_sub, ← Nat.mul_add_one]
  rfl

theorem moved_advance : chunkSize c * b.advance.chunk = chunkSize c * b.chunk + chunkSize c := Nat.mul_add_one ..

/-- `ADDR` of the next chunk (R194, R196). -/
theorem addr_advance : b.advance.addr c = b.addr c + BitVec.ofNat 32 (chunkSize c) := by
  simp only [BlockOp.addr, BlockOp.moved, moved_advance, BitVec.ofNat_add, BitVec.add_assoc]
  rfl

/-- After the last chunk the operation gives its code (R194, R195). -/
theorem afterChunk_of_last {s : State} (h : (b.sz s.cfg).toNat ≤ chunkSize s.cfg) :
    afterChunk r b false s = s.report r (.code s.acc) := if_pos (.inl h)

/-- After any other chunk that went well it stands before the next. -/
theorem afterChunk_of_more {s : State} (h : chunkSize s.cfg < (b.sz s.cfg).toNat) (ha : s.acc = 0) :
    afterChunk r b false s = (s.loadBlock b.advance).setSeq r (.block b.advance) :=
  if_neg (by rintro (hle | hne) <;> [omega; exact hne ha])

/-- A turn of the chunk loop whose chunk succeeds: its unit, and `ACC` is still 0. -/
theorem chunkTurn_unit (hz : c.success = 0) {evs : List Event} (h : Plays c off (chunkOp c b) evs m m1 ())
    {s : State} {rest : List Answer} (hc : s.cfg = c) (hoff : s.crcOff = off) (hm : s.mem = m) (hfree : s.lock = .free)
    (ho : s.oracle = scriptOf (unitOf r evs) ++ rest) :
    ∃ t, Played s t (unitOf r evs) rest m1 ∧ t.acc = 0 ∧ chunkTurn r b s = afterChunk r b false t := by
  obtain ⟨t, ht, hh, hor, hmem, hres, ⟨hcfg, hcrc, hlock, hseqs, hlens, hport, hissuer, hsched⟩⟩ :=
    lockedRetry_plays h r (s := s.loadBlock b) hc hoff hm hfree ho
  refine ⟨{ t.loadBlock b with acc := 0 + t.cfg.success },
    ⟨hh, hor, hmem, hres, ⟨hcfg, hcrc, hlock, hseqs, hlens, hport, hissuer, hsched⟩⟩, ?_, ?_⟩
  · show 0 + t.cfg.success = 0
    rw [hcfg.trans hc, hz]
    rfl
  · rw [chunkTurn, if_pos hfree, hc, ht]
    rfl

theorem chunkTurn_plays_last (hz : c.success = 0) (hb : 0 < bytesLeft c b) (hlast : bytesLeft c b ≤ chunkSize c) {evs : List Event}
    (h : Plays c off (chunkOp c b) evs m m1 ()) {s : State} {rest : List Answer} (hc : s.cfg = c) (hoff : s.crcOff = off)
    (hm : s.mem = m) (hfree : s.lock = .free) (ho : s.oracle = scriptOf (unitOf r evs) ++ rest) :
    ∃ t, Played s t (unitOf r evs) rest m1 ∧ chunkTurn r b s = t.report r (.code 0) := by
  obtain ⟨t, hp, ha, he⟩ := chunkTurn_unit hz h hc hoff hm hfree ho
  have hsz : (b.sz c).toNat = bytesLeft c b := sz_toNat (r := r) (sound_of_bytesLeft hb)
  refine ⟨t, hp, he.trans (ha ▸ afterChunk_of_last ?_)⟩
  rwa [hp.outside.cfg, hc, hsz]

theorem chunkTurn_plays_more (hz : c.success = 0) (hmore : chunkSize c < bytesLeft c b) {evs : List Event}
    (h : Plays c off (chunkOp c b) evs m m1 ()) {s : State} {rest : List Answer} (hc : s.cfg = c) (hoff : s.crcOff = off)
    (hm : s.mem = m) (hfree : s.lock = .free) (ho : s.oracle = scriptOf (unitOf r evs) ++ rest) :
    ∃ t, Played s t (unitOf r evs) rest m1 ∧ chunkTurn r b s = t.setSeq r (.block b.advance) := by
  obtain ⟨t, ⟨hh, hor, hmem, hres, houtside⟩, ha, he⟩ := chunkTurn_unit hz h hc hoff hm hfree ho
  have hsz : (b.sz c).toNat = bytesLeft c b := sz_toNat (r := r) (sound_of_bytesLeft (by omega))
  obtain ⟨hcfg, hcrc, hlock, hseqs, hlens, hport, hissuer, hsched⟩ := houtside
  refine ⟨t.loadBlock b.advance, ⟨hh, hor, hmem, hres, ⟨hcfg, hcrc, hlock, hseqs, hlens, hport, hissuer, hsched⟩⟩,
    he.trans (afterChunk_of_more ?_ ha)⟩
  rwa [hcfg, hc, hsz]

end

/-! ## All chunks -/

/-- A block operation's chunks from the next one on, `n` of them, each of which plays its events. -/
inductive ChunksPlay (c : Cfg) (off : Bool) (r : Nat) : Nat → BlockOp → List Event → Memory → Memory → Prop
  | last {b : BlockOp} {evs : List Event} {m m' : Memory} : 0 < bytesLeft c b → bytesLeft c b ≤ chunkSize c →
      Plays c off (chunkOp c b) evs m m' () → ChunksPlay c off r 1 b (unitOf r evs) m m'
  | more {n : Nat} {b : BlockOp} {evs later : List Event} {m m' m'' : Memory} : chunkSize c < bytesLeft c b →
      Plays c off (chunkOp c b) evs m m' () → ChunksPlay c off r n b.advance later m' m'' →
      ChunksPlay c off r (n + 1) b (unitOf r evs ++ later) m m''

/-- From `s` to `u` requester `r`'s block operation has come to its end with code 0, and these events have happened; the oracle and the
scheduler's script have been used up to `rest` and `sched`. -/
structure BlockPlayed (r : Nat) (s u : State) (evs : List Event) (rest : List Answer) (sched : List Nat) (m : Memory) : Prop where
  history : u.h = s.h ++ evs
  oracle : u.oracle = rest
  sched : u.sched = sched
  mem : u.mem = m
  results : u.results = s.results ++ [(r, .code 0)]
  seqs : u.seqs = s.seqs
  lock : u.lock = .free
  cfg : u.cfg = s.cfg
  crcOff : u.crcOff = s.crcOff
  bufLens : u.bufLens = s.bufLens

/-- A requester put into the sequencer and taken out again leaves it as it was without it. -/
theorem filter_seqInsert (l : List (Nat × SeqPos)) (r : Nat) (p : SeqPos) :
    (seqInsert l r p).filter (fun x => decide (x.1 ≠ r)) = l.filter (fun x => decide (x.1 ≠ r)) := by
  induction l with
  | nil => simp [seqInsert]
  | cons x l ih =>
    obtain ⟨q, y⟩ := x
    simp only [seqInsert]
    split_ifs with hlt heq
    · simp
    · simp [heq]
    · rw [List.filter_cons, ih, List.filter_cons]

theorem filter_of_lookup_eq_none {l : List (Nat × SeqPos)} {r : Nat} (h : l.lookup r = none) :
    l.filter (fun x => decide (x.1 ≠ r)) = l := by
  refine List.filter_eq_self.mpr fun x hx => ?_
  have hne : r ≠ x.1 := by simpa using List.lookup_eq_none_iff.mp h x hx
  simpa using hne.symm

theorem atNextChunk_seqs {s : State} {r : Nat} (h : s.seqOf r = none) (b : BlockOp) (sched : List Nat) :
    (s.atNextChunk r b sched).seqs = s.seqs :=
  (filter_seqInsert s.seqs r (.block b)).trans (filter_of_lookup_eq_none h)

/-- The chunks of a block operation, the scheduler turning to its requester for each of the later ones (R194, R195). -/
theorem chunkTurn_blockPlayed {c : Cfg} {off : Bool} {r n : Nat} {b : BlockOp} {evs : List Event} {m m' : Memory} {s : State}
    {sched : List Nat} {rest : List Answer} (hw : c.wf = true) (hz : c.success = 0)
    (h : ChunksPlay c off r (n + 1) b evs m m') (hc : s.cfg = c) (hoff : s.crcOff = off) (hm : s.mem = m) (hfree : s.lock = .free)
    (hidle : s.seqOf r = none) (hs : s.sched = List.replicate n r ++ sched) (ho : s.oracle = scriptOf evs ++ rest) :
    ∃ u, Host.Core.run Sys2Proof.core n (chunkTurn r b s) = .next u ∧ BlockPlayed r s u evs rest sched m' := by
  induction n generalizing b evs m s with
  | zero =>
    cases h with
    | last hleft hlast h =>
      obtain ⟨t, hp, he⟩ := chunkTurn_plays_last hz hleft hlast h hc hoff hm hfree ho
      rw [he]
      exact ⟨_, rfl, hp.history, hp.oracle, hp.outside.sched.trans hs, hp.mem, by simp [hp.results], hp.outside.seqs,
        hp.outside.lock.trans hfree, hp.outside.cfg, hp.outside.crcOff, hp.outside.bufLens⟩
    | more _ _ hnext => cases hnext
  | succ n ih =>
    cases h with
    | more hmore h hnext =>
      rw [scriptOf_append, List.append_assoc] at ho
      obtain ⟨t, hp, he⟩ := chunkTurn_plays_more hz hmore h hc hoff hm hfree ho
      have hcfg : t.cfg = c := hp.outside.cfg.trans hc
      have hidle' : t.seqOf r = none := by simpa [State.seqOf, hp.outside.seqs] using hidle
      have hstep := step_nextChunk (s := t) (b := b.advance) (sched := List.replicate n r ++ sched) (hcfg ▸ hw)
        (hp.outside.sched.trans hs)
      have hseqs := atNextChunk_seqs hidle' b.advance (List.replicate n r ++ sched)
      obtain ⟨u, hu, hq⟩ := ih (s := t.atNextChunk r b.advance (List.replicate n r ++ sched)) hnext hcfg
        (hp.outside.crcOff.trans hoff) hp.mem (hp.outside.lock.trans hfree) (lookup_filter_ne _ r) rfl hp.oracle
      rw [he, run_succ hstep]
      refine ⟨u, hu, ?_, hq.oracle, hq.sched, hq.mem, hq.results.trans (congrArg (· ++ _) hp.results),
        hq.seqs.trans (hseqs.trans hp.outside.seqs), hq.lock, hq.cfg.trans hp.outside.cfg, hq.crcOff.trans hp.outside.crcOff,
        hq.bufLens.trans hp.outside.bufLens⟩
      rw [hq.history, ← List.append_assoc, ← hp.history]
      rfl

/-! ## The chunks of a write and of a read -/

section
variable {c : Cfg} {off : Bool} {r : Nat}

/-- The chunk of a write: its bytes all have a value (R195, R196). -/
theorem chunkOp_plays_write (hw : c.wf = true) {b : BlockOp} {m : Memory} {p : List Byte} (hb : b.write = true)
    (hleft : 0 < bytesLeft c b) (hp : p.length = min (bytesLeft c b) (chunkSize c))
    (h : m.known? b.buf p.length (chunkSize c * b.chunk) = some p) :
    Plays c off (chunkOp c b) (blockWriteEvents c off (b.addr c) p) m m () := by
  have hC := chunkSize_pos hw
  have hs : (SeqPos.block b).sound c 0 := sound_of_bytesLeft hleft
  rw [chunkOp, if_pos hb, off_toNat hs, chunkBytes_eq hs, ← hp]
  exact xblkWr_plays hw (b.addr c) (List.ne_nil_of_length_pos (by omega)) h

/-- The chunk of a read, answered by frames the block accepts (R194, R196). -/
theorem chunkOp_plays_read (hw : c.wf = true) {b : BlockOp} (m : Memory) {p : List Byte} {fs : List SlaveFrame} (hb : b.write = false)
    (hleft : 0 < bytesLeft c b) (hp : p.length = min (bytesLeft c b) (chunkSize c))
    (hfs : fs.map (fun f => f.body) = piecesOf c.dataPktSz p.length p) (hacc : ∀ f ∈ fs, f.accepted c.rspRetry) :
    Plays c off (chunkOp c b) (blockReadEvents c off (b.addr c) p.length fs) m (m.writeRun b.buf (chunkSize c * b.chunk) p) () := by
  have hC := chunkSize_pos hw
  have hs : (SeqPos.block b).sound c 0 := sound_of_bytesLeft hleft
  rw [chunkOp, if_neg (by simp [hb]), off_toNat hs, chunkBytes_eq hs, ← hp]
  exact xblkRd_plays hw (b.addr c) (List.ne_nil_of_length_pos (by omega)) hfs hacc

/-- The chunks of `WRITE_BLOCK` over bytes that all have a value (R195). -/
theorem writeChunks_play (hw : c.wf = true) {k : Nat} {b : BlockOp} {bs : List Byte} {m : Memory} (hb : b.write = true)
    (hpos : 0 < bs.length) (hleft : bs.length = bytesLeft c b) (hk : bs.length ≤ k)
    (h : m.known? b.buf bs.length (chunkSize c * b.chunk) = some bs) :
    ChunksPlay c off r (piecesOf (chunkSize c) k bs).length b (writeChunks c off r (b.addr c) (piecesOf (chunkSize c) k bs)) m m := by
  have hC := chunkSize_pos hw
  induction k generalizing b bs with
  | zero => omega
  | succ k ih =>
    rcases Nat.lt_or_ge (chunkSize c) bs.length with hmore | hlast
    · have htake : (bs.take (chunkSize c)).length = chunkSize c := List.length_take_of_le hmore.le
      have hdrop : (bs.drop (chunkSize c)).length = bs.length - chunkSize c := List.length_drop
      have hplay := chunkOp_plays_write (off := off) hw hb (by omega) (by omega) (known?_take h (chunkSize c))
      have hknown := known?_drop h hmore.le
      rw [← moved_advance] at hknown
      have hnext := ih (b := b.advance) hb (by omega) (by rw [bytesLeft_advance]; omega) (by omega) hknown
      rw [piecesOf_more hmore, writeChunks, htake, ← addr_advance]
      exact .more (by omega) hplay hnext
    · have hplay := chunkOp_plays_write (off := off) hw hb (by omega) (by omega) h
      rw [piecesOf_last (List.ne_nil_of_length_pos hpos) hlast, writeChunks, writeChunks, List.append_nil]
      exact .last (by omega) (by omega) hplay

/-- The chunks of `READ_BLOCK`, each answered by frames the block accepts (R194): the bytes land one behind the other. -/
theorem readChunks_play (hw : c.wf = true) {k : Nat} {b : BlockOp} {bs : List Byte} {fss : List (List SlaveFrame)} {m : Memory}
    (hb : b.write = false) (hpos : 0 < bs.length) (hleft : bs.length = bytesLeft c b) (hk : bs.length ≤ k)
    (hfss : fss.map (fun fs => fs.map (fun f => f.body)) =
      (piecesOf (chunkSize c) k bs).map (fun p => piecesOf c.dataPktSz p.length p))
    (hacc : ∀ fs ∈ fss, ∀ f ∈ fs, f.accepted c.rspRetry) :
    ChunksPlay c off r fss.length b (readChunks c off r (b.addr c) fss) m (m.writeRun b.buf (chunkSize c * b.chunk) bs) := by
  have hC := chunkSize_pos hw
  have hbytes : ∀ p : List Byte, (piecesOf c.dataPktSz p.length p).flatten = p := fun p =>
    piecesOf_flatten (dataPktSz_pos hw) (le_refl _)
  induction k generalizing b bs fss m with
  | zero => omega
  | succ k ih =>
    rcases Nat.lt_or_ge (chunkSize c) bs.length with hmore | hlast
    · rw [piecesOf_more hmore, List.map_cons] at hfss
      obtain ⟨fs, fss, rfl, hfs, hfss⟩ := List.map_eq_cons_iff.mp hfss
      obtain ⟨hfacc, hacc⟩ := List.forall_mem_cons.mp hacc
      have htake : (bs.take (chunkSize c)).length = chunkSize c := List.length_take_of_le hmore.le
      have hdrop : (bs.drop (chunkSize c)).length = bs.length - chunkSize c := List.length_drop
      have hplay := chunkOp_plays_read (off := off) hw m hb (by omega) (by omega) hfs hfacc
      have hnext := ih (b := b.advance) (m := m.writeRun b.buf (chunkSize c * b.chunk) (bs.take (chunkSize c))) hb
        (by omega) (by rw [bytesLeft_advance]; omega) (by omega) hfss hacc
      have hrun := writeRun_append m b.buf (chunkSize c * b.chunk) (bs.take (chunkSize c)) (bs.drop (chunkSize c))
      rw [htake, List.take_append_drop, ← moved_advance] at hrun
      rw [readChunks, hfs, hbytes, htake, ← addr_advance, ← hrun]
      rw [htake] at hplay
      exact .more (by omega) hplay hnext
    · rw [piecesOf_last (List.ne_nil_of_length_pos hpos) hlast] at hfss
      obtain ⟨fs, rfl, hfs⟩ := List.map_eq_singleton_iff.mp hfss
      have hplay := chunkOp_plays_read (off := off) hw m hb (by omega) (by omega) hfs (hacc fs (by simp))
      rw [readChunks, readChunks, List.append_nil, hfs, hbytes]
      exact .last (by omega) (by omega) hplay

end

/-! ## Block operations and the round trip -/

section
variable {s : State} {r : Nat} {adr size : Word} {buf : BufId} {bs : List Byte} {sched : List Nat} {rest : List Answer}

theorem addr_newBlock (c : Cfg) (w : Bool) (adr : Word) (buf : BufId) (size : Word) : (newBlock w adr buf size).addr c = adr :=
  BitVec.add_zero adr

/-- A request for a block operation all of whose chunks play their events. -/
theorem exec_blockPlayed {w : Bool} {n : Nat} {evs : List Event} {m : Memory} (ha : s.admits r) (hfree : s.lock = .free)
    (hz : s.cfg.success = 0) (hb : s.bufferReady r buf 0 size.toNat (!w))
    (h : ChunksPlay s.cfg s.crcOff r n (newBlock w adr buf size) evs s.mem m)
    (hs : s.sched = List.replicate (n - 1) r ++ sched) (ho : s.oracle = scriptOf evs ++ rest) :
    ∃ t u, exec (if w then .writeBlock r adr buf size else .readBlock r adr buf size) s = .next t ∧
      Host.Core.run Sys2Proof.core (n - 1) t = .next u ∧ BlockPlayed r s u evs rest sched m := by
  cases n with
  | zero => cases h
  | succ n =>
    obtain ⟨u, hu, hp⟩ := chunkTurn_blockPlayed ha.1 hz h rfl rfl rfl hfree ha.2.2 hs ho
    exact ⟨_, u, exec_block ha hb, hu, hp⟩

/-- `WRITE_BLOCK` of bytes that all have a value (R195, R196). -/
theorem exec_writeBlock_played (ha : s.admits r) (hfree : s.lock = .free) (hz : s.cfg.success = 0)
    (hb : s.bufferReady r buf 0 size.toNat false) (hknown : s.mem.known? buf size.toNat 0 = some bs)
    (hs : s.sched = List.replicate ((piecesOf (chunkSize s.cfg) bs.length bs).length - 1) r ++ sched)
    (ho : s.oracle = scriptOf (writeChunks s.cfg s.crcOff r adr (piecesOf (chunkSize s.cfg) bs.length bs)) ++ rest) :
    ∃ t u, exec (.writeBlock r adr buf size) s = .next t ∧
      Host.Core.run Sys2Proof.core ((piecesOf (chunkSize s.cfg) bs.length bs).length - 1) t = .next u ∧
      BlockPlayed r s u (writeChunks s.cfg s.crcOff r adr (piecesOf (chunkSize s.cfg) bs.length bs)) rest sched s.mem := by
  obtain ⟨hlen, _⟩ := known?_eq_some_iff.mp hknown
  have hchunks := writeChunks_play (off := s.crcOff) (r := r) ha.1 (b := newBlock true adr buf size) rfl (hlen ▸ hb.1) hlen (le_refl _)
    (hlen.symm ▸ hknown)
  rw [addr_newBlock] at hchunks
  exact exec_blockPlayed (w := true) ha hfree hz hb hchunks hs ho

/-- `READ_BLOCK` answered by frames the block accepts (R194, R196). -/
theorem exec_readBlock_played {fss : List (List SlaveFrame)} (ha : s.admits r) (hfree : s.lock = .free) (hz : s.cfg.success = 0)
    (hb : s.bufferReady r buf 0 size.toNat true) (hlen : bs.length = size.toNat)
    (hfss : fss.map (fun fs => fs.map (fun f => f.body)) =
      (piecesOf (chunkSize s.cfg) bs.length bs).map (fun p => piecesOf s.cfg.dataPktSz p.length p))
    (hacc : ∀ fs ∈ fss, ∀ f ∈ fs, f.accepted s.cfg.rspRetry)
    (hs : s.sched = List.replicate (fss.length - 1) r ++ sched)
    (ho : s.oracle = scriptOf (readChunks s.cfg s.crcOff r adr fss) ++ rest) :
    ∃ t u, exec (.readBlock r adr buf size) s = .next t ∧ Host.Core.run Sys2Proof.core (fss.length - 1) t = .next u ∧
      BlockPlayed r s u (readChunks s.cfg s.crcOff r adr fss) rest sched (s.mem.writeRun buf 0 bs) := by
  have hchunks := readChunks_play (off := s.crcOff) (r := r) (m := s.mem) ha.1 (b := newBlock false adr buf size) rfl (hlen ▸ hb.1)
    hlen (le_refl _) hfss hacc
  rw [addr_newBlock] at hchunks
  exact exec_blockPlayed (w := false) ha hfree hz hb hchunks hs ho

end

/-- The bodies of a slave's plain frames are the pieces of its bytes (42_spi_data R152). -/
theorem plainFrames_bodies (pkt : Nat) (bs : List Byte) : (plainFrames pkt bs).map (fun f => f.body) = piecesOf pkt bs.length bs := by
  simp [plainFrames, Function.comp_def]

theorem plainFrames_accepted (k pkt : Nat) (bs : List Byte) : ∀ f ∈ plainFrames pkt bs, f.accepted k := by
  intro f hf
  obtain ⟨b, _, rfl⟩ := List.mem_map.mp hf
  have hheader : (0xF0 : Byte).extractLsb' 4 4 = 0xF := by decide
  exact ⟨Nat.zero_le k, by simp, hheader, rfl⟩

/-- Settles O46: the write leaves the state ready for the read, whose frames carry the pieces of the same bytes. -/
theorem writeThenReadRoundTrip : Obligations.WriteThenReadRoundTrip := by
  intro s r adr b1 b2 size bs rest ha hfree hz hne hb1 hb2 hknown _ _ chunks frames hs ho
  obtain ⟨hlen, _⟩ := known?_eq_some_iff.mp hknown
  have hframes : frames.length = chunks.length := List.length_map _
  rw [scriptOf_append, List.append_assoc] at ho
  rw [Nat.two_mul, ← List.replicate_append_replicate] at hs
  obtain ⟨t, u, ht, hu, hp⟩ := exec_writeBlock_played ha hfree hz hb1 hknown hs ho
  have hau : u.admits r := by simpa only [State.admits, State.seqOf, hp.cfg, hp.seqs] using ha
  have hbu : u.bufferReady r b2 0 size.toNat true := by
    simpa only [State.bufferReady, State.bufShort, State.bufConflict, hp.bufLens, hp.seqs] using hb2
  have hsu : u.sched = List.replicate (frames.length - 1) r ++ [] := by rw [hp.sched, hframes, List.append_nil]
  have hou : u.oracle = scriptOf (readChunks u.cfg u.crcOff r adr frames) ++ rest := by rw [hp.oracle, hp.cfg, hp.crcOff]
  have hbodies : frames.map (fun fs => fs.map (fun f => f.body)) =
      (piecesOf (chunkSize u.cfg) bs.length bs).map (fun p => piecesOf u.cfg.dataPktSz p.length p) := by
    rw [hp.cfg, List.map_map]
    exact List.map_congr_left fun p _ => plainFrames_bodies _ p
  have hacc : ∀ fs ∈ frames, ∀ f ∈ fs, f.accepted u.cfg.rspRetry := by
    intro fs hfs
    obtain ⟨p, _, rfl⟩ := List.mem_map.mp hfs
    exact plainFrames_accepted _ _ p
  obtain ⟨v, w, hv, hw, hq⟩ := exec_readBlock_played hau hp.lock (hp.cfg ▸ hz) hbu hlen hbodies hacc hsu hou
  refine ⟨t, u, v, w, ht, hu, hv, hframes ▸ hw, ?_, ?_, ?_, ?_⟩
  · rw [hq.history, hp.history, hp.cfg, hp.crcOff]
  · rw [hq.results, hp.results, List.append_assoc]
    rfl
  · rw [hq.mem, hp.mem, known?_writeRun_other _ hne, hknown]
  · rw [hq.mem, ← hlen, known?_writeRun]

end Sys2Proof.Machine
end

section
/-! PROOFS. Words taken apart and put together (30_encoding R71 to R90; log entries 10, 11): the bytes of an operand and back, the
opcode and select bytes and back, and for each space of the opcode table what is read from an encoded instruction and what is encoded
of a decoded one. -/

namespace Sys2Proof.Machine

/-! ## Bytes of an operand -/

/-- A slice that begins above the lower of two values put together is a slice of the upper one. -/
theorem extractLsb'_append_above {v w : Nat} (hi : BitVec v) (lo : BitVec w) (start len : Nat) :
    (hi ++ lo).extractLsb' (start + w) len = hi.extractLsb' start len := by
  rw [BitVec.extractLsb'_append_eq_of_le (Nat.le_add_left w start), Nat.add_sub_cancel]

/-- A value cut in two, and put together again. -/
theorem extractLsb'_append_self (v w : Nat) (x : BitVec (v + w)) : x.extractLsb' w v ++ x.extractLsb' 0 w = x := by
  rw [BitVec.extractLsb'_append_extractLsb'_eq_extractLsb' (Nat.zero_add w).symm, BitVec.extractLsb'_eq_self]

@[simp] theorem be16_join (v : BitVec 16) : (v.extractLsb' 8 8 ++ v.extractLsb' 0 8 : BitVec 16) = v :=
  extractLsb'_append_self 8 8 v

@[simp] theorem be24_join (v : BitVec 24) :
    (v.extractLsb' 16 8 ++ v.extractLsb' 8 8 ++ v.extractLsb' 0 8 : BitVec 24) = v :=
  have high : v.extractLsb' 16 8 ++ v.extractLsb' 8 8 = v.extractLsb' 8 16 :=
    BitVec.extractLsb'_append_extractLsb'_eq_extractLsb' rfl
  (congrArg (· ++ v.extractLsb' 0 8) high).trans (extractLsb'_append_self 16 8 v)

@[simp] theorem be32_join (v : BitVec 32) :
    (v.extractLsb' 24 8 ++ v.extractLsb' 16 8 ++ v.extractLsb' 8 8 ++ v.extractLsb' 0 8 : BitVec 32) = v :=
  have top : v.extractLsb' 24 8 ++ v.extractLsb' 16 8 = v.extractLsb' 16 16 :=
    BitVec.extractLsb'_append_extractLsb'_eq_extractLsb' rfl
  have high : v.extractLsb' 16 16 ++ v.extractLsb' 8 8 = v.extractLsb' 8 24 :=
    BitVec.extractLsb'_append_extractLsb'_eq_extractLsb' rfl
  (congrArg (· ++ v.extractLsb' 8 8 ++ v.extractLsb' 0 8) top).trans
    ((congrArg (· ++ v.extractLsb' 0 8) high).trans (extractLsb'_append_self 24 8 v))

@[simp] theorem be16_append (b1 b0 : Byte) : be16 (b1 ++ b0 : BitVec 16) = [b1, b0] := by
  rw [be16, BitVec.extractLsb'_append_eq_left, BitVec.extractLsb'_append_eq_right]

@[simp] theorem be24_append (b2 b1 b0 : Byte) : be24 (b2 ++ b1 ++ b0 : BitVec 24) = [b2, b1, b0] := by
  have hlow : be24 (b2 ++ b1 ++ b0 : BitVec 24) = be16 (b2 ++ b1) ++ [b0] := by
    simp only [be24, be16, List.cons_append, List.nil_append, List.cons.injEq, and_true]
    exact ⟨extractLsb'_append_above _ b0 8 8, extractLsb'_append_above _ b0 0 8, BitVec.extractLsb'_append_eq_right⟩
  rw [hlow, be16_append, List.cons_append, List.singleton_append]

@[simp] theorem be32_append (b3 b2 b1 b0 : Byte) : be32 (b3 ++ b2 ++ b1 ++ b0 : BitVec 32) = [b3, b2, b1, b0] := by
  have hlow : be32 (b3 ++ b2 ++ b1 ++ b0 : BitVec 32) = be24 (b3 ++ b2 ++ b1) ++ [b0] := by
    simp only [be32, be24, List.cons_append, List.nil_append, List.cons.injEq, and_true]
    exact ⟨extractLsb'_append_above _ b0 16 8, extractLsb'_append_above _ b0 8 8, extractLsb'_append_above _ b0 0 8,
      BitVec.extractLsb'_append_eq_right⟩
  rw [hlow, be24_append, List.cons_append, List.cons_append, List.singleton_append]

/-! ## The address of an internal command: 15 bits below the clockless flag (30_encoding R74, R78) -/

@[simp] theorem internalHigh_flag (k : Bool) (a : BitVec 15) : (internalHigh k a)[7] = k := by
  rw [← BitVec.getLsbD_eq_getElem, internalHigh, BitVec.getLsbD_append]
  simp

@[simp] theorem internalHigh_join (k : Bool) (a : BitVec 15) :
    ((internalHigh k a).extractLsb' 0 7 ++ a.extractLsb' 0 8 : BitVec 15) = a :=
  (congrArg (· ++ a.extractLsb' 0 8) BitVec.extractLsb'_append_eq_right).trans (extractLsb'_append_self 7 8 a)

@[simp] theorem internalHigh_append (b1 b0 : Byte) : internalHigh b1[7] (b1.extractLsb' 0 7 ++ b0 : BitVec 15) = b1 := by
  have hflag : BitVec.ofBool b1[7] = b1.extractLsb' 7 1 := by
    ext i hi
    obtain rfl : i = 0 := by omega
    simp
  rw [internalHigh, BitVec.extractLsb'_append_eq_left, hflag]
  exact extractLsb'_append_self 1 7 b1

@[simp] theorem internalLow_append (b1 b0 : Byte) : (b1.extractLsb' 0 7 ++ b0 : BitVec 15).extractLsb' 0 8 = b0 :=
  BitVec.extractLsb'_append_eq_right

/-! ## Operands narrower than a byte, and sequences -/

@[simp] theorem readBool_boolByte (b : Bool) : readBool (boolByte b) = some b := by cases b <;> rfl

theorem boolByte_of_readBool {k : Byte} {b : Bool} (h : readBool k = some b) : boolByte b = k := by
  unfold readBool at h
  split_ifs at h with h0 h1 <;> cases h
  · exact h0.symm
  · exact h1.symm

@[simp] theorem readCrc_setWidth (c : Crc) : readCrc (c.setWidth 8) = some c := by
  have hbit : (c.setWidth 8).extractLsb' 7 1 = 0 := by
    ext i hi
    simp
  have hlow : (c.setWidth 8).extractLsb' 0 7 = c := by
    rw [← BitVec.setWidth_eq_extractLsb' (by decide), BitVec.setWidth_setWidth_of_le _ (by decide), BitVec.setWidth_eq]
  rw [readCrc, if_pos hbit, hlow]

theorem setWidth_of_readCrc {b : Byte} {c : Crc} (h : readCrc b = some c) : c.setWidth 8 = b := by
  unfold readCrc at h
  split_ifs at h with hbit
  cases h
  calc (b.extractLsb' 0 7).setWidth 8
    _ = 0#1 ++ b.extractLsb' 0 7 := BitVec.setWidth_eq_append (by decide)
    _ = b.extractLsb' 7 1 ++ b.extractLsb' 0 7 := by rw [hbit]; rfl
    _ = b := extractLsb'_append_self 1 7 b

theorem seqBytes_prefix_of_readSeq {w bs tail : List Byte} (h : readSeq w = .ok (bs, tail)) : seqBytes bs <+: w :=
  ⟨tail, (seqBytes_of_readSeq h).symm⟩

/-- A number and the fields read from what follows it begin the word. -/
theorem natBytes_append_prefix {w tail fields : List Byte} {n : Nat} (h : readNat w = .ok (n, tail)) (hf : fields <+: tail) :
    natBytes n ++ fields <+: w := by
  rw [natBytes_of_readNat h]
  exact (List.prefix_append_right_inj _).mpr hf

theorem natBytes_prefix_of_readNat {w tail : List Byte} {n : Nat} (h : readNat w = .ok (n, tail)) : natBytes n <+: w :=
  ⟨tail, (natBytes_of_readNat h).symm⟩

/-! ## Opcode and select bytes -/

/-- The command a byte selects is the one whose opcode byte it is (30_encoding R81). -/
theorem code_of_name? {m : OpcMap} {b : Byte} {c : CmdName} : m.name? b = some c → m.code c = b := by
  fun_cases OpcMap.name? m b <;> intro h <;> cases h <;> exact Eq.symm ‹b = _›

/-- A byte outside the map selects no command (R86). -/
theorem name?_eq_none {m : OpcMap} {b : Byte} (h : b ∉ m.values) : m.name? b = none := by
  simp only [OpcMap.values, List.mem_cons, List.not_mem_nil, not_or, or_false] at h
  simp [OpcMap.name?, h]

/-- The operation a select byte names is the one whose code it is (R90). -/
theorem selectOf_eq_some_iff {b : Byte} {sel : Select} : selectOf b = some sel ↔ sel.code = b := by
  constructor
  · fun_cases selectOf b <;> intro h <;> cases h <;> exact BitVec.eq_of_toNat_eq (Eq.symm ‹b.toNat = _›)
  · rintro rfl
    cases sel <;> rfl

/-- A byte that is no operation's code names none (R90). -/
theorem selectOf_eq_none {b : Byte} (h : ∀ sel : Select, sel.code ≠ b) : selectOf b = none :=
  Option.eq_none_iff_forall_ne_some.mpr fun sel hs => h sel (selectOf_eq_some_iff.mp hs)

theorem decodeCommand_code {m : OpcMap} (hm : m.wf = true) (c : CmdName) (w : List Byte) :
    decodeCommand m (m.code c :: w) = decodeFields c w := by
  simp [decodeCommand, name?_code hm]

@[simp] theorem decodeRequest_code (sel : Select) (w : List Byte) : decodeRequest (sel.code :: w) = decodeOperands sel w := by
  simp [decodeRequest, selectOf_eq_some_iff.mpr rfl]

/-! ## An encoded instruction is decoded -/

/-- A command frame is read back, with its CRC byte or without (30_encoding R73 to R79). -/
theorem decodeCommand_encode {m : OpcMap} (hm : m.wf = true) {i : Instr} (h : i.space = .command) (trailing : List Byte) :
    decodeCommand m (encode m i ++ trailing) = .ok i := by
  cases i with
  | cmdDmaWrite a sz => exact (decodeCommand_code hm .dmaWrite _).trans (by simp [decodeFields, be24, be16])
  | cmdDmaRead a sz => exact (decodeCommand_code hm .dmaRead _).trans (by simp [decodeFields, be24, be16])
  | cmdInternalWrite k a dat => exact (decodeCommand_code hm .internalWrite _).trans (by simp [decodeFields, be32])
  | cmdInternalRead k a => exact (decodeCommand_code hm .internalRead _).trans (by simp [decodeFields])
  | cmdTerminate => exact decodeCommand_code hm .terminate _
  | cmdRepeat => exact decodeCommand_code hm .repeat_ _
  | cmdDmaExtWrite a sz => exact (decodeCommand_code hm .dmaExtWrite _).trans (by simp [decodeFields, be24])
  | cmdDmaExtRead a sz => exact (decodeCommand_code hm .dmaExtRead _).trans (by simp [decodeFields, be24])
  | cmdSingleWrite a dat => exact (decodeCommand_code hm .singleWrite _).trans (by simp [decodeFields, be24, be32])
  | cmdSingleRead a => exact (decodeCommand_code hm .singleRead _).trans (by simp [decodeFields, be24])
  | cmdReset => exact decodeCommand_code hm .reset _
  | _ => cases h

/-- A request is read back (30_encoding R90, log entry 10). -/
theorem decodeRequest_encode (m : OpcMap) {i : Instr} (h : i.space = .request) (trailing : List Byte) :
    decodeRequest (encode m i ++ trailing) = .ok i := by
  cases i with
  | crc7Byte c d => simp [encode, decodeOperands]
  | crc7 seed bs => simp [encode, decodeOperands, readSeq_seqBytes]
  | crc7Tx bs => simp [encode, decodeOperands, readSeq_seqBytes]
  | crc7Check bs => simp [encode, decodeOperands, readSeq_seqBytes]
  | spiCmd cmd adr dat sz clk => simp [encode, decodeOperands, be32]
  | spiCmdRsp cmd => simp [encode, decodeOperands]
  | spiDataRead buf off size clk => simp [encode, decodeOperands, be16, readNat_natBytes]
  | spiDataWrite buf off size => simp [encode, decodeOperands, be16, readNat_natBytes]
  | spiReset => simp [encode, decodeOperands]
  | xregRd adr => simp [encode, decodeOperands, be32]
  | xregWr adr dat => simp [encode, decodeOperands, be32]
  | xblkRd adr buf off n => simp [encode, decodeOperands, be32, be16, readNat_natBytes]
  | xblkWr adr buf off n => simp [encode, decodeOperands, be32, be16, readNat_natBytes]
  | readReg r adr => simp [encode, decodeOperands, be32, readNat_natBytes]
  | writeReg r adr dat => simp [encode, decodeOperands, be32, readNat_natBytes]
  | readBlock r adr buf size => simp [encode, decodeOperands, be32, be16, readNat_natBytes]
  | writeBlock r adr buf size => simp [encode, decodeOperands, be32, be16, readNat_natBytes]
  | setCrc off => simp [encode, decodeOperands]
  | lockAcquire r => simp [encode, decodeOperands, readNat_natBytes]
  | lockRelease r => simp [encode, decodeOperands, readNat_natBytes]
  | _ => cases h

/-- A read header is read back (30_encoding R85). -/
theorem decodeReadHeader_encode (m : OpcMap) (x : BitVec 4) (trailing : List Byte) :
    decodeReadHeader (encode m (.dataRspHdr x) ++ trailing) = .ok (.dataRspHdr x) := by
  have hhigh : ((0xF : BitVec 4) ++ x).extractLsb' 4 4 = 0xF := BitVec.extractLsb'_append_eq_left
  have hlow : ((0xF : BitVec 4) ++ x).extractLsb' 0 4 = x := BitVec.extractLsb'_append_eq_right
  exact (if_pos hhigh).trans (congrArg (fun v => Except.ok (Instr.dataRspHdr v)) hlow)

/-! ## A decoded word is encoded -/

/-- The bytes of a request that the decoder reads are those of the instruction (30_encoding R90, log entry 10). -/
theorem encode_prefix_of_decodeOperands (m : OpcMap) {sel : Select} {w : List Byte} {i : Instr} :
    decodeOperands sel w = .ok i → i.space = .request ∧ encode m i <+: sel.code :: w := by
  fun_cases decodeOperands sel w <;> intro h <;> cases h <;> refine ⟨rfl, ?_⟩ <;>
    simp only [encode, be16_append, be32_append, List.cons_append, List.nil_append, List.cons_prefix_cons, List.nil_prefix,
      true_and, and_true]
  -- In the table's order; the requests all of whose bytes are plain are closed by now.
  · exact setWidth_of_readCrc ‹_›  -- `CRC7_BYTE`
  · exact ⟨setWidth_of_readCrc ‹_›, seqBytes_prefix_of_readSeq ‹_›⟩  -- `CRC7`
  · exact seqBytes_prefix_of_readSeq ‹_›  -- `CRC7_TX`
  · exact seqBytes_prefix_of_readSeq ‹_›  -- `CRC7_CHECK`
  · exact boolByte_of_readBool ‹_›  -- `SPI_CMD`
  · rw [boolByte_of_readBool ‹_›]  -- `SPI_DATA_READ`
    exact natBytes_append_prefix ‹_› (List.prefix_append [_, _, _] _)
  · exact natBytes_append_prefix ‹_› (List.prefix_append [_, _] _)  -- `SPI_DATA_WRITE`
  · exact natBytes_append_prefix ‹_› (List.prefix_append [_, _] _)  -- `XBLK_RD`
  · exact natBytes_append_prefix ‹_› (List.prefix_append [_, _] _)  -- `XBLK_WR`
  · exact natBytes_append_prefix ‹_› (List.prefix_append [_, _, _, _] _)  -- `READ_REG`
  · exact natBytes_append_prefix ‹_› (List.prefix_append [_, _, _, _, _, _, _, _] _)  -- `WRITE_REG`
  · exact natBytes_append_prefix ‹_› (List.prefix_append [_, _, _, _, _, _, _, _, _, _] _)  -- `READ_BLOCK`
  · exact natBytes_append_prefix ‹_› (List.prefix_append [_, _, _, _, _, _, _, _, _, _] _)  -- `WRITE_BLOCK`
  · exact boolByte_of_readBool ‹_›  -- `SET_CRC`
  · exact natBytes_prefix_of_readNat ‹_›  -- `LOCK_ACQUIRE`
  · exact natBytes_prefix_of_readNat ‹_›  -- `LOCK_RELEASE`

/-- How far the encoding of an instruction read from a word agrees with the word (log entry 11): in all bytes, but for the constant
payload bytes, which the decoder does not look at. -/
structure Reencodes (m : OpcMap) (i : Instr) (w : List Byte) : Prop where
  head : (encode m i).head? = w.head?
  internalRead : ∀ k a, i = .cmdInternalRead k a → (encode m i).take 3 = w.take 3
  rest : (∀ k a, i ≠ .cmdInternalRead k a) → i ≠ .cmdTerminate → i ≠ .cmdRepeat → i ≠ .cmdReset → encode m i <+: w

theorem encode_ne_nil (m : OpcMap) (i : Instr) : encode m i ≠ [] := by
  cases i <;> exact List.cons_ne_nil _ _

theorem reencodes_of_prefix {m : OpcMap} {i : Instr} {w : List Byte} (h : encode m i <+: w) : Reencodes m i w where
  head := by
    obtain ⟨tail, rfl⟩ := h
    exact (List.head?_append_of_ne_nil _ (encode_ne_nil m i)).symm
  internalRead := by
    rintro k a rfl
    obtain ⟨tail, rfl⟩ := h
    rfl
  rest := fun _ _ _ _ => h

/-- The fields of a command frame (30_encoding R73 to R79). -/
theorem reencodes_of_decodeFields (m : OpcMap) {c : CmdName} {w : List Byte} {i : Instr} :
    decodeFields c w = .ok i → i.space = .command ∧ Reencodes m i (m.code c :: w) := by
  fun_cases decodeFields c w <;> intro h <;> cases h <;> refine ⟨rfl, ?_⟩
  case case4.refl =>
    refine ⟨rfl, ?_, fun h => absurd rfl (h _ _)⟩
    rintro k a ⟨⟩
    simp [encode, OpcMap.code]
  case case5.refl => exact ⟨rfl, nofun, fun _ h => absurd rfl h⟩
  case case6.refl => exact ⟨rfl, nofun, fun _ _ h => absurd rfl h⟩
  case case11.refl => exact ⟨rfl, nofun, fun _ _ _ h => absurd rfl h⟩
  all_goals exact reencodes_of_prefix (by simp [encode, OpcMap.code])

/-- A command frame, opcode byte and fields. -/
theorem reencodes_of_decodeCommand {m : OpcMap} {w : List Byte} {i : Instr} :
    decodeCommand m w = .ok i → i.space = .command ∧ Reencodes m i w := by
  fun_cases decodeCommand m w
  case case1 => exact nofun
  case case2 b rest c hc => exact code_of_name? hc ▸ reencodes_of_decodeFields m
  case case3 => exact nofun

/-- A request, select byte and operands. -/
theorem encode_prefix_of_decodeRequest (m : OpcMap) {w : List Byte} {i : Instr} :
    decodeRequest w = .ok i → i.space = .request ∧ encode m i <+: w := by
  fun_cases decodeRequest w
  case case1 => exact nofun
  case case2 b rest sel hs => exact selectOf_eq_some_iff.mp hs ▸ encode_prefix_of_decodeOperands m
  case case3 => exact nofun

theorem encode_prefix_of_decodeEcho (m : OpcMap) {w : List Byte} {i : Instr} :
    decodeEcho w = .ok i → i.space = .echo ∧ encode m i <+: w := by
  fun_cases decodeEcho w <;> intro h <;> cases h
  exact ⟨rfl, List.prefix_append [_] _⟩

theorem encode_prefix_of_decodeStatus (m : OpcMap) {w : List Byte} {i : Instr} :
    decodeStatus w = .ok i → i.space = .status ∧ encode m i <+: w := by
  fun_cases decodeStatus w <;> intro h <;> cases h
  exact ⟨rfl, List.prefix_append [_] _⟩

theorem encode_prefix_of_decodeWriteHeader (m : OpcMap) {w : List Byte} {i : Instr} :
    decodeWriteHeader w = .ok i → i.space = .writeHeader ∧ encode m i <+: w := by
  fun_cases decodeWriteHeader w <;> intro h <;> cases h <;> exact ⟨rfl, List.prefix_append [_] _⟩

theorem encode_prefix_of_decodeReadHeader (m : OpcMap) {w : List Byte} {i : Instr} :
    decodeReadHeader w = .ok i → i.space = .readHeader ∧ encode m i <+: w := by
  fun_cases decodeReadHeader w <;> intro h <;> cases h
  case case2.refl b rest hb =>
    have hbyte : (0xF : BitVec 4) ++ b.extractLsb' 0 4 = b :=
      hb ▸ extractLsb'_append_self 4 4 b
    exact ⟨rfl, rest, congrArg (· :: rest) hbyte⟩

/-- What a word of any space is read as is of that space and is encoded as the bytes read, as far as they were looked at. -/
theorem reencodes_of_decodeIn {m : OpcMap} {sp : Space} {w : List Byte} {i : Instr} (h : decodeIn m sp w = .ok i) :
    i.space = sp ∧ Reencodes m i w := by
  cases sp with
  | command => exact reencodes_of_decodeCommand h
  | request => exact (encode_prefix_of_decodeRequest m h).imp_right reencodes_of_prefix
  | echo => exact (encode_prefix_of_decodeEcho m h).imp_right reencodes_of_prefix
  | status => exact (encode_prefix_of_decodeStatus m h).imp_right reencodes_of_prefix
  | writeHeader => exact (encode_prefix_of_decodeWriteHeader m h).imp_right reencodes_of_prefix
  | readHeader => exact (encode_prefix_of_decodeReadHeader m h).imp_right reencodes_of_prefix

/-! ## The statements -/

/-- Settles O1: each space reads its own words back; a response byte or header is the whole word. -/
theorem encodeThenDecode : Obligations.EncodeThenDecode := by
  intro m i trailing hm
  cases hs : i.space with
  | command => exact decodeCommand_encode hm hs trailing
  | request => exact decodeRequest_encode m hs trailing
  | echo | status | writeHeader | readHeader =>
    cases i with
    | rspEcho o => cases hs <;> rfl
    | rspStatus => cases hs <;> rfl
    | dataHdrFirst => cases hs <;> rfl
    | dataHdrMiddle => cases hs <;> rfl
    | dataHdrLast => cases hs <;> rfl
    | dataRspHdr x => cases hs <;> exact decodeReadHeader_encode m x trailing
    | _ => cases hs

/-- Settles O2: the encoding begins the word, and a list that begins another is as many of its first elements. -/
theorem decodedWordsReencode : Obligations.DecodedWordsReencode := by
  intro m sp w i _ h
  obtain ⟨hspace, hhead, hread, hrest⟩ := reencodes_of_decodeIn h
  exact ⟨hspace, hhead, hread, fun h1 h2 h3 h4 => List.prefix_iff_eq_take.mp (hrest h1 h2 h3 h4)⟩

/-- A request that is no instruction refuses the step of its requester (93 U4). -/
theorem stepOf_of_bad {s : State} {q : Nat} {x : Request} {port : List Request} {e : DecodeError} (hn : s.seqOf q = none)
    (hx : takeRequest q s.port = some (x, port)) (he : decodeIn s.cfg.opc x.space x.word = .error e) :
    stepOf q s = .refused (.noInstruction e) := by
  simp [stepOf, State.fetch, hn, hx, he]

/-- A request whose select byte names no operation (30_encoding R90). -/
theorem decodeRequest_of_unknownSelect {b : Byte} (h : ∀ sel : Select, sel.code ≠ b) (rest : List Byte) :
    decodeRequest (b :: rest) = .error (.unknownSelect b) := by
  simp [decodeRequest, selectOf_eq_none h]

/-- Settles O3: each decoder's last case, and for the step the request the scheduler's requester has to run. -/
theorem reservedWordsAreRefused : Obligations.ReservedWordsAreRefused := by
  intro m b rest
  refine ⟨fun h => ?_, fun h => decodeRequest_of_unknownSelect h rest, fun h => if_neg h, fun h1 h2 h3 => ?_, fun h => if_neg h, ?_⟩
  · simp [decodeIn, decodeCommand, name?_eq_none h]
  · exact (if_neg h1).trans ((if_neg h2).trans (if_neg h3))
  · intro s q port sched hw h hs hn hp
    rw [step_of_sched hw hs]
    exact stepOf_of_bad (x := ⟨q, .request, b :: rest⟩) (port := port) hn (by simp [hp, takeRequest])
      (decodeRequest_of_unknownSelect h rest)

/-- Settles O4: each word is laid out and read, byte by byte. -/
theorem sampleTableWords : Obligations.SampleTableWords := by
  refine ⟨?_, ?_, ?_, ?_, ?_, ?_, ?_, ?_, ?_, ?_⟩ <;> decide

end Sys2Proof.Machine
end

section
/-! PROOFS. The payload and frame of a command (30_encoding R72, R82): the bytes of each field, and how many they are. -/

namespace Sys2Proof.Machine

/-! ## Slices of operands -/

/-- A slice within the low `n` bits is one of those bits alone. -/
theorem extractLsb'_low {w n start len : Nat} (x : BitVec w) (h : start + len ≤ n) :
    (x.extractLsb' 0 n).extractLsb' start len = x.extractLsb' start len := by
  ext i hi
  simp [show start + i < n by omega]

/-- Values with the same low bits have the same slices there. -/
theorem extractLsb'_congr_of_low {w n start len : Nat} {x y : BitVec w} (h : x.extractLsb' 0 n = y.extractLsb' 0 n)
    (hn : start + len ≤ n) : x.extractLsb' start len = y.extractLsb' start len := by
  rw [← extractLsb'_low x hn, h, extractLsb'_low y hn]

theorem low24_eq (v : Word) : low24 v = [v.extractLsb' 16 8, v.extractLsb' 8 8, v.extractLsb' 0 8] := by
  simp only [low24, be24, extractLsb'_low v (show 16 + 8 ≤ 24 by decide), extractLsb'_low v (show 8 + 8 ≤ 24 by decide),
    extractLsb'_low v (show 0 + 8 ≤ 24 by decide)]

theorem low16_eq (v : Word) : low16 v = [v.extractLsb' 8 8, v.extractLsb' 0 8] := by
  simp only [low16, be16, extractLsb'_low v (show 8 + 8 ≤ 16 by decide), extractLsb'_low v (show 0 + 8 ≤ 16 by decide)]

/-- The flag is or-ed into bit 7 and leaves the bits below alone (30_encoding R74, R78). -/
theorem internalByte_eq (adr : Word) (clk : Bool) :
    internalByte adr clk = BitVec.ofBool (adr.getLsbD 15 || clk) ++ adr.extractLsb' 8 7 := by
  have hmask : ∀ i (_ : i < 7), (0x80#8)[i] = false := by decide
  refine BitVec.eq_of_getLsbD_eq fun i hi => ?_
  rw [internalByte, BitVec.getLsbD_or, BitVec.getLsbD_append, BitVec.getLsbD_extractLsb', BitVec.getLsbD_extractLsb']
  by_cases h7 : i < 7
  · cases clk <;> simp [h7, hi, hmask]
  · obtain rfl : i = 7 := by omega
    cases clk <;> simp

/-! ## The statements -/

/-- Settles O6: the fields byte by byte, and each byte a slice of the low 24 bits of its operand. -/
theorem operandAssembly : Obligations.OperandAssembly := by
  refine ⟨fun adr dat sz clk => ?_, fun c adr adr' dat sz sz' clk hadr hsz => ?_⟩
  · simp only [payload, low24_eq, low16_eq, internalByte_eq, be32, List.cons_append, List.nil_append, and_self]
  · have hflag : internalByte adr clk = internalByte adr' clk := by
      rw [internalByte, extractLsb'_congr_of_low hadr (by decide), internalByte]
    have hlow : adr.extractLsb' 0 8 = adr'.extractLsb' 0 8 := extractLsb'_congr_of_low hadr (by decide)
    have hadr24 : low24 adr = low24 adr' := congrArg be24 hadr
    have hsz24 : low24 sz = low24 sz' := congrArg be24 hsz
    have hsz16 : low16 sz = low16 sz' := congrArg be16 (extractLsb'_congr_of_low hsz (by decide))
    cases c <;> simp only [payload, hflag, hlow, hadr24, hsz24, hsz16]

/-- With `npay_le`: every payload has 3 to 7 bytes (30_encoding R72). -/
theorem npay_ge (c : CmdName) : 3 ≤ npay c := by cases c <;> decide

/-- Settles O5: the CRC byte is the one byte more. -/
theorem frameLengths : Obligations.FrameLengths := by
  refine ⟨payload_length, by decide, fun cfg opcode c adr dat sz clk => ?_⟩
  have hle := npay_le c
  have hge := npay_ge c
  refine ⟨?_, ?_, by omega, by omega⟩ <;>
    simp only [frameBytes, if_true, Bool.false_eq_true, if_false, List.length_append, List.length_cons, List.length_nil,
      payload_length] <;> omega

end Sys2Proof.Machine
end

section
/-! PROOFS. Headers sent and response bytes awaited (30_encoding R84, R85, 41_spi_command R134): the state each leaves when the
transport answers as it is scripted to. -/

namespace Sys2Proof.Machine

/-! ## Write headers -/

/-- A write header in its own burst (30_encoding R84). -/
theorem sendHeader_good {s : State} {bs : List Byte} {rest : List Answer} (h : s.oracle = .good bs :: rest) (order : BitVec 2) :
    sendHeader order s = (.ok (), { s with order := order, oracle := rest }.log (.w [headerByte order] true)) :=
  sendBurst_good (s := { s with order := order }) h _

/-- Settles O21: the three rows send the header byte of their own code. -/
theorem writeHeadersAreSent : Obligations.WriteHeadersAreSent := by
  intro s i code bs rest hs hi ho
  obtain ⟨order, hexec, rfl⟩ : ∃ order, exec i s = runBus s (sendHeader order) (fun _ => .ok) ∧ order.setWidth 8 = code := by
    rcases hi with ⟨rfl, rfl⟩ | ⟨rfl, rfl⟩ | ⟨rfl, rfl⟩
    · exact ⟨1, rfl, rfl⟩
    · exact ⟨2, rfl, rfl⟩
    · exact ⟨3, rfl, rfl⟩
  rw [hexec, runBus_of_onBus hs, sendHeader_good ho]
  exact ⟨_, rfl, ⟨rfl, rfl, rfl, rfl, rfl, rfl, rfl, rfl, rfl, rfl, rfl⟩, rfl, ⟨rfl, rfl, rfl, rfl, rfl⟩, ⟨rfl, rfl⟩,
    ⟨rfl, rfl, rfl⟩, rfl, ⟨rfl, rfl, rfl, rfl⟩, rfl, fun _ _ => rfl⟩

/-! ## Response loops -/

/-- After a response loop that has read `misses` and then `b`: every miss is counted in `RK`, and `RSP` holds the last byte. -/
def State.afterReads (s : State) (misses : List Byte) (b : Byte) (rest : List Answer) : State :=
  { s with
    h := s.h ++ readsOf (misses ++ [b])
    oracle := rest
    rsp := b
    rk := s.rk + BitVec.ofNat 4 misses.length }

theorem afterReads_nil (s : State) (b : Byte) (rest : List Answer) :
    s.afterReads [] b rest = { { s with oracle := rest }.log (.r 1 (some [b])) with rsp := b } := by
  simp [State.afterReads, State.log, readsOf]

/-- One more miss before the reads. -/
theorem afterReads_cons (s : State) (x : Byte) (misses : List Byte) (b : Byte) (rest : List Answer) (o : List Answer) :
    State.afterReads { { { s with oracle := o }.log (.r 1 (some [x])) with rsp := x } with rk := s.rk + 1 } misses b rest =
      s.afterReads (x :: misses) b rest := by
  have hrk : s.rk + 1 + BitVec.ofNat 4 misses.length = s.rk + BitVec.ofNat 4 (x :: misses).length := by
    rw [List.length_cons, BitVec.ofNat_add, BitVec.add_assoc, BitVec.add_comm 1]
    rfl
  simp only [State.afterReads, State.log, hrk]
  simp [readsOf]

/-- A response loop that reads bytes it does not await, and then one that it awaits, or one more than it has retries for
(41_spi_command R134). -/
theorem awaitLoop_reads {accept : Byte → Bool} (cause : Byte → Cause) {misses : List Byte} (hmiss : ∀ x ∈ misses, accept x = false)
    (b : Byte) {k : Nat} (hk : misses.length ≤ k) (hend : accept b = false → misses.length = k) {s : State} {rest : List Answer}
    (ho : s.oracle = scriptOf (readsOf (misses ++ [b])) ++ rest) :
    awaitLoop accept cause k s = (if accept b then .ok () else .fail (cause b), s.afterReads misses b rest) := by
  induction misses generalizing k s with
  | nil =>
    rw [afterReads_nil]
    cases k with
    | zero =>
      rw [awaitLoop, andThen_of_ok (readRsp_good ho)]
      split <;> rfl
    | succ k =>
      have hb : accept b = true := by
        by_contra hb
        exact absurd (hend (Bool.eq_false_iff.mpr hb)) (by simp)
      rw [awaitLoop, andThen_of_ok (readRsp_good ho), if_pos hb, if_pos hb]
      rfl
  | cons x misses ih =>
    obtain ⟨hx, hmiss⟩ := List.forall_mem_cons.mp hmiss
    cases k with
    | zero => exact absurd hk (by simp)
    | succ k =>
      rw [awaitLoop, andThen_of_ok (readRsp_good ho), if_neg (by simp [hx]), ← afterReads_cons]
      exact ih hmiss (by simpa using hk) (fun hb => by simpa using hend hb) rfl

/-- The same from the loop's start: at most `RSP_RETRY` retries (92 D9). -/
theorem awaitByte_reads {accept : Byte → Bool} (cause : Byte → Cause) {misses : List Byte} (hmiss : ∀ x ∈ misses, accept x = false)
    (b : Byte) {s : State} (hk : misses.length ≤ s.cfg.rspRetry) (hend : accept b = false → misses.length = s.cfg.rspRetry)
    {rest : List Answer} (ho : s.oracle = scriptOf (readsOf (misses ++ [b])) ++ rest) :
    awaitByte accept cause s =
      (if accept b then .ok () else .fail (cause b), { s with rk := 0 }.afterReads misses b rest) :=
  awaitLoop_reads cause hmiss b hk hend ho

/-- The account of a response loop and its result. -/
theorem afterReads_did (s : State) (misses : List Byte) (b : Byte) (rest : List Answer) (res : Result) :
    s.Did (({ s with rk := 0 }.afterReads misses b rest).report s.issuer res) s.issuer (readsOf (misses ++ [b])) rest res :=
  ⟨rfl, rfl, rfl, ⟨rfl, rfl, rfl, rfl, rfl, rfl, rfl, rfl⟩⟩

/-! ## The read header -/

/-- Settles O22: `DATA_RSP_HDR` is a response loop that awaits a header. -/
theorem readHeaderIsAwaited : Obligations.ReadHeaderIsAwaited := by
  intro s x es b rest hs hes ho
  have hmiss : ∀ e ∈ es, isDataHeader e = false := fun e he => decide_eq_false (hes e he)
  have hexec : exec (.dataRspHdr x) s = .next (conclude s.issuer (fun _ => .ok) (awaitHeader s)) := runBus_of_onBus hs _ _
  refine ⟨fun hle hb => ?_, fun hlen hb => ?_⟩
  · have hb : isDataHeader b = true := decide_eq_true hb
    rw [hexec, awaitHeader, awaitByte_reads _ hmiss b hle (by simp [hb]) ho, if_pos hb]
    exact ⟨_, rfl, afterReads_did s es b rest _, rfl, BitVec.zero_add _, ⟨rfl, rfl, rfl, rfl, rfl⟩, ⟨rfl, rfl, rfl⟩, rfl, rfl,
      ⟨rfl, rfl, rfl, rfl⟩, rfl, fun _ _ => rfl⟩
  · have hb : isDataHeader b = false := decide_eq_false hb
    rw [hexec, awaitHeader, awaitByte_reads _ hmiss b hlen.le (fun _ => hlen) ho, if_neg (by simp [hb])]
    exact ⟨_, rfl, afterReads_did s es b rest _⟩

end Sys2Proof.Machine
end

section
/-! PROOFS. The CRC7 generator (40_crc7 R100 to R105): the bit-serial step is linear, and a CRC7 followed by its own CRC byte
leaves 0. From these two facts follow the table's index (R101), the zero-residue law (R104) and the laws of R105. -/

namespace Sys2Proof.Machine

/-! ## One bit -/

/-- What one bit of `bitwise` subtracts from the shifted value: the polynomial, or nothing (40_crc7 R100). -/
def feedback (t : Bool) : Crc := if t then 0x09 else 0

theorem feedback_xor (t t' : Bool) : feedback (xor t t') = feedback t ^^^ feedback t' := by
  cases t <;> cases t' <;> rfl

theorem bitStep_eq (c : Crc) (b : Bool) : bitStep c b = (c <<< 1) ^^^ feedback (xor (c.getLsbD 6) b) := by
  rw [bitStep, feedback]
  split
  · rfl
  · exact BitVec.xor_zero.symm

theorem bitStep_xor (c c' : Crc) (b b' : Bool) : bitStep (c ^^^ c') (xor b b') = bitStep c b ^^^ bitStep c' b' := by
  simp only [bitStep_eq, BitVec.getLsbD_xor, BitVec.shiftLeft_xor_distrib, feedback_xor]
  ac_rfl

/-- A message bit equal to the top bit of the value cancels it: a plain shift. -/
theorem bitStep_topBit (c : Crc) : bitStep c (c.getLsbD 6) = c <<< 1 := by
  simp [bitStep]

/-- The polynomial is odd, so bit 0 of the result holds the bit shifted out: no bit is lost. -/
theorem eq_zero_of_bitStep_false : ∀ {c : Crc}, bitStep c false = 0 → c = 0 := by decide

/-! ## One byte -/

theorem bitwise_xor (c c' : Crc) (d d' : Byte) : bitwise (c ^^^ c') (d ^^^ d') = bitwise c d ^^^ bitwise c' d' := by
  unfold bitwise
  induction [7, 6, 5, 4, 3, 2, 1, 0] generalizing c c' with
  | nil => rfl
  | cons k ks ih => rw [List.foldl_cons, List.foldl_cons, List.foldl_cons, BitVec.getLsbD_xor, bitStep_xor, ih]

theorem eq_zero_of_bitwise_zero {c : Crc} : bitwise c 0 = 0 → c = 0 := by
  unfold bitwise
  induction [7, 6, 5, 4, 3, 2, 1, 0] generalizing c with
  | nil => exact id
  | cons k ks ih => exact fun h => eq_zero_of_bitStep_false (by simpa using ih h)

/-- The CRC byte is the CRC7 in bits 7:1 and a 0 (40_crc7 R103). -/
theorem crcByteOf_eq_append (v : Crc) : crcByteOf v = v ++ 0#1 := by
  refine BitVec.eq_of_getLsbD_eq fun i hi => ?_
  rw [crcByteOf, BitVec.getLsbD_append]
  cases i with
  | zero => simp
  | succ i => simp [hi]

theorem crcByteOf_getLsbD_zero (v : Crc) : (crcByteOf v).getLsbD 0 = false := by
  simp [crcByteOf]

theorem crcByteOf_toNat (v : Crc) : (crcByteOf v).toNat = 2 * v.toNat := by
  rw [crcByteOf_eq_append, BitVec.toNat_append]
  simp [Nat.shiftLeft_eq, Nat.mul_comm]

theorem crcByteOf_high (v : Crc) : (crcByteOf v).extractLsb' 1 7 = v := by
  rw [crcByteOf_eq_append]
  exact BitVec.extractLsb'_append_eq_left

/-- An even byte is the CRC byte of its bits 7:1. -/
theorem crcByteOf_of_even {b : Byte} (h : b.getLsbD 0 = false) : crcByteOf (b.extractLsb' 1 7) = b := by
  have hlow : b.extractLsb' 0 1 = 0#1 := by
    ext i hi
    obtain rfl : i = 0 := by omega
    simpa using h
  rw [crcByteOf_eq_append, ← hlow]
  exact extractLsb'_append_self 7 1 b

/-- The bits of the CRC byte from 7 down are the top bits of the CRC7 as it is shifted out. -/
theorem crcByteOf_getLsbD_sub (c : Crc) {j : Nat} (hj : j < 8) : (crcByteOf c).getLsbD (7 - j) = (c <<< j).getLsbD 6 := by
  rw [crcByteOf, BitVec.getLsbD_shiftLeft, BitVec.getLsbD_shiftLeft]
  by_cases h7 : j = 7
  · simp [h7]
  · simp [show ¬ 7 - j = 0 by omega, show ¬ 6 < j by omega, show 7 - j < 8 by omega, show 6 - j < 8 by omega,
      show 7 - j - 1 = 6 - j by omega]

/-- So each of them only shifts the CRC7 on. -/
theorem foldl_bitStep_crcByteOf (c : Crc) {n : Nat} (hn : n ≤ 8) :
    (List.range n).foldl (fun acc j => bitStep acc ((crcByteOf c).getLsbD (7 - j))) c = c <<< n := by
  induction n with
  | zero => exact (BitVec.shiftLeft_zero c).symm
  | succ n ih =>
    rw [List.range_succ, List.foldl_append, ih (Nat.le_of_succ_le hn), List.foldl_cons, List.foldl_nil, crcByteOf_getLsbD_sub c hn,
      bitStep_topBit, BitVec.shiftLeft_add]

/-- A CRC7 followed by its own CRC byte leaves 0: eight shifts of seven bits. -/
theorem bitwise_crcByteOf (c : Crc) : bitwise c (crcByteOf c) = 0 :=
  (foldl_bitStep_crcByteOf c (le_refl 8)).trans (BitVec.shiftLeft_eq_zero (by decide))

/-- The bit-serial step depends on the index of R101 alone. -/
theorem bitwise_eq_bitwise_crcIndex (c : Crc) (d : Byte) : bitwise c d = bitwise 0 (crcIndex c d) := by
  calc bitwise c d
    _ = bitwise c (crcByteOf c) ^^^ bitwise c d := by rw [bitwise_crcByteOf]; exact BitVec.zero_xor.symm
    _ = bitwise (c ^^^ c) (crcByteOf c ^^^ d) := (bitwise_xor c c (crcByteOf c) d).symm
    _ = bitwise 0 (crcIndex c d) := by rw [BitVec.xor_self]; rfl

/-- Of the even bytes only its CRC byte brings a CRC7 to 0: the step by a zero byte loses no bit of the difference. -/
theorem eq_crcByteOf_iff {v : Crc} {b : Byte} : b = crcByteOf v ↔ bitwise v b = 0 ∧ b.getLsbD 0 = false := by
  constructor
  · rintro rfl
    exact ⟨bitwise_crcByteOf v, crcByteOf_getLsbD_zero v⟩
  · rintro ⟨hzero, heven⟩
    obtain ⟨w, rfl⟩ : ∃ w, crcByteOf w = b := ⟨_, crcByteOf_of_even heven⟩
    have hdiff : bitwise (v ^^^ w) 0 = 0 := by
      calc bitwise (v ^^^ w) 0
        _ = bitwise (v ^^^ w) (crcByteOf w ^^^ crcByteOf w) := by rw [BitVec.xor_self]; rfl
        _ = bitwise v (crcByteOf w) ^^^ bitwise w (crcByteOf w) := bitwise_xor v w _ _
        _ = 0 := by rw [hzero, bitwise_crcByteOf]; rfl
    rw [BitVec.xor_eq_zero_iff.mp (eq_zero_of_bitwise_zero hdiff)]

/-! ## The table of R100 -/

theorem defaultTable_eq_map_bitwise : defaultTable = (List.range 256).map fun i => bitwise 0 (BitVec.ofNat 8 i) := by
  decide +kernel

theorem defaultTable_length : defaultTable.length = 256 := by
  rw [defaultTable_eq_map_bitwise, List.length_map, List.length_range]

/-- The table step is the bit-serial one for all operands (40_crc7 R101). -/
theorem crcStep_defaultTable : crcStep defaultTable = bitwise := by
  funext c d
  have hlt : (crcIndex c d).toNat < 256 := (crcIndex c d).isLt
  rw [crcStep, defaultTable_eq_map_bitwise, bitwise_eq_bitwise_crcIndex]
  simp [List.getD_eq_getElem?_getD, hlt]

/-! ## Sequences -/

theorem crcOf_append (table : List Crc) (seed : Crc) (bs cs : List Byte) :
    crcOf table seed (bs ++ cs) = crcOf table (crcOf table seed bs) cs := List.foldl_append

/-- Two sequences of one length, each from its own seed (40_crc7 R105). -/
theorem crcOf_xor (x y : Crc) {bs cs : List Byte} (h : bs.length = cs.length) :
    crcOf defaultTable (x ^^^ y) (List.zipWith (fun a b => a ^^^ b) bs cs) =
      crcOf defaultTable x bs ^^^ crcOf defaultTable y cs := by
  simp only [crcOf, crcStep_defaultTable]
  induction bs generalizing x y cs with
  | nil => cases cs with
    | nil => rfl
    | cons => cases h
  | cons b bs ih => cases cs with
    | nil => cases h
    | cons c cs =>
      rw [List.zipWith_cons_cons, List.foldl_cons, List.foldl_cons, List.foldl_cons, bitwise_xor]
      exact ih _ _ (Nat.succ.inj h)

theorem zipWith_xor_zeros (bs : List Byte) : List.zipWith (fun a b => a ^^^ b) bs (List.replicate bs.length 0) = bs := by
  induction bs with
  | nil => rfl
  | cons b bs ih => simpa [List.replicate_succ] using ih

/-- The zero-residue law (40_crc7 R104), from any seed. -/
theorem eq_crcByteOf_iff_residue {seed : Crc} {bs : List Byte} {b : Byte} :
    b = crcByteOf (crcOf defaultTable seed bs) ↔ crcOf defaultTable seed (bs ++ [b]) = 0 ∧ b.getLsbD 0 = false := by
  rw [eq_crcByteOf_iff, crcOf_append, ← crcStep_defaultTable]
  rfl

/-! ## The instructions -/

section
variable {s : State} (h : s.admits s.issuer)
include h

theorem exec_crc7Byte (c : Crc) (d : Byte) :
    exec (.crc7Byte c d) s =
      .next ({ s with crc := crcStep s.cfg.crc7Table c d }.report s.issuer (.crc (crcStep s.cfg.crc7Table c d))) :=
  admit_of_admits h _

theorem exec_crc7 (seed : Crc) (bs : List Byte) :
    exec (.crc7 seed bs) s =
      .next ({ s with crc := crcOf s.cfg.crc7Table seed bs }.report s.issuer (.crc (crcOf s.cfg.crc7Table seed bs))) :=
  admit_of_admits h _

theorem exec_crc7Tx (bs : List Byte) :
    exec (.crc7Tx bs) s = .next ({ s with crc := Cfg.crcSum s.cfg bs }.report s.issuer (.byte (Cfg.crcTx s.cfg bs))) :=
  admit_of_admits h _

/-- A frame with a last byte: that byte against the CRC byte of those before it (40_crc7 R104). -/
theorem exec_crc7Check_append (bs : List Byte) (b : Byte) :
    exec (.crc7Check (bs ++ [b])) s =
      .next ({ s with crc := Cfg.crcSum s.cfg bs }.report s.issuer (.bit (decide (b = Cfg.crcTx s.cfg bs)))) := by
  refine (admit_of_admits h _).trans ?_
  rw [if_neg (List.append_ne_nil_of_right_ne_nil bs (List.cons_ne_nil b [])), Cfg.crcCheck, List.dropLast_concat,
    List.getLastD_concat]

/-- The empty frame: a free bit (log entry 21). -/
theorem exec_crc7Check_nil :
    exec (.crc7Check []) s =
      .next (({ s with crc := s.cfg.crc7Seed }.drawn 1).report s.issuer (.bit ((Config.freeByte s.draws).getLsbD 0))) :=
  admit_of_admits h _

end

/-! ## The statements -/

/-- Settles O7: the index decides the bit-serial step, and the table lists it for every index. -/
theorem crc7ByteIsOneTableStep : Obligations.Crc7ByteIsOneTableStep := by
  intro s c d hs
  refine ⟨exec_crc7Byte hs c d, ?_, defaultTable_length, rfl, rfl, fun ht => ?_, rfl⟩
  · simp
  · rw [ht]
    exact congrFun₂ crcStep_defaultTable c d

/-- Settles O10: the zero-residue law for the frame's last byte. -/
theorem crc7CheckIsZeroResidue : Obligations.Crc7CheckIsZeroResidue := by
  intro s bs b hs _
  refine ⟨exec_crc7Check_append hs bs b, fun ht hseed => ?_, rfl, by decide, by decide⟩
  rw [Cfg.crcTx, Cfg.crcSum, ht, hseed]
  exact eq_crcByteOf_iff_residue

/-- Settles O12: linearity from two seeds, once with both 0 and once with a sequence of zeros. -/
theorem generatorIsLinear : Obligations.GeneratorIsLinear := by
  refine ⟨fun bs cs h => ?_, fun seed bs => ?_⟩
  · exact crcOf_xor 0 0 h
  · have h := crcOf_xor 0 seed (List.length_replicate (n := bs.length) (a := (0 : Byte))).symm
    rwa [zipWith_xor_zeros, show (0 : Crc) ^^^ seed = seed from BitVec.zero_xor] at h

/-- Settles O8: `CRC7` is a left fold. -/
theorem crc7FoldsTheBytes : Obligations.Crc7FoldsTheBytes := by
  intro s seed bs cs hs
  exact ⟨exec_crc7 hs seed bs, rfl, fun _ => rfl, crcOf_append _ seed bs cs, rfl, rfl, rfl, by decide⟩

/-- Settles O9: the seven bits of the CRC7 stand above a 0. -/
theorem crc7TxShiftsLeftByOne : Obligations.Crc7TxShiftsLeftByOne := by
  intro s bs hs v b
  have hb : b.toNat = 2 * v.toNat := crcByteOf_toNat v
  refine ⟨exec_crc7Tx hs bs, crcByteOf_getLsbD_zero v, hb, by omega, crcByteOf_high v, rfl, fun hseed => ?_, rfl, by decide⟩
  exact congrArg crcByteOf hseed

/-- Settles O11: one byte is a last byte with none before it, and no byte draws the bit. -/
theorem crc7CheckOfShortFrames : Obligations.Crc7CheckOfShortFrames :=
  fun _ b hs => ⟨exec_crc7Check_append hs [] b, _, exec_crc7Check_nil hs⟩

end Sys2Proof.Machine
end

section
/-! PROOFS. Command frames sent (41_spi_command R120 to R133, 30_encoding R71 to R80): the state a frame leaves whatever the transport
answers, `SPI_CMD` with an opcode and with another byte, and the wire rows as `SPI_CMD` with the fields their frames carry (log
entry 12). -/

namespace Sys2Proof.Machine

/-! ## The frame in the command buffer -/

/-- An opcode byte and its payload: at most eight bytes (30_encoding R72). -/
theorem commandBody_length_le (opcode : Byte) (c : CmdName) (adr dat sz : Word) (clk : Bool) :
    (opcode :: payload c adr dat sz clk).length ≤ 8 := by
  have := npay_le c
  rw [List.length_cons, payload_length]
  omega

theorem frameBytes_length_le (c : Cfg) (crcOff : Bool) {body : List Byte} (h : body.length ≤ 8) :
    (frameBytes c crcOff body).length ≤ 9 := by
  unfold frameBytes
  split
  · omega
  · rw [List.length_append]
    exact Nat.succ_le_succ h

/-- Both modes load the frame; the generator runs when `CRC_OFF = 0` alone (41_spi_command R133, 40_crc7 R106). -/
theorem buildFrame_eq (s : State) (body : List Byte) :
    s.buildFrame body =
      { s with crc := if s.crcOff then s.crc else Cfg.crcSum s.cfg body }.loadFrame (frameBytes s.cfg s.crcOff body) := by
  unfold State.buildFrame frameBytes
  split <;> rfl

/-! ## The burst -/

/-- After the frame of these opcode and payload bytes has been loaded into `CB` and sent in one burst. -/
def State.frameSent (s : State) (body : List Byte) (ok : Bool) (rest : List Answer) : State :=
  { s.buildFrame body with oracle := rest }.log (.w (frameBytes s.cfg s.crcOff body) ok)

theorem frameSent_eq (s : State) (body : List Byte) (ok : Bool) (rest : List Answer) :
    s.frameSent body ok rest =
      ({ s with crc := if s.crcOff then s.crc else Cfg.crcSum s.cfg body, oracle := rest }.loadFrame
        (frameBytes s.cfg s.crcOff body)).log (.w (frameBytes s.cfg s.crcOff body) ok) := by
  rw [State.frameSent, buildFrame_eq]
  rfl

@[simp] theorem frameSent_h (s : State) (body : List Byte) (ok : Bool) (rest : List Answer) :
    (s.frameSent body ok rest).h = s.h ++ [.w (frameBytes s.cfg s.crcOff body) ok] := by
  rw [frameSent_eq]
  rfl

@[simp] theorem frameSent_crc (s : State) (body : List Byte) (ok : Bool) (rest : List Answer) :
    (s.frameSent body ok rest).crc = if s.crcOff then s.crc else Cfg.crcSum s.cfg body := by
  rw [frameSent_eq]
  rfl

/-- The frame is still in `CB` (10_state R22). -/
theorem frameSent_buffer (s : State) {body : List Byte} (h : body.length ≤ 8) (ok : Bool) (rest : List Answer) :
    (s.frameSent body ok rest).cb.take (s.frameSent body ok rest).cbLen.toNat = frameBytes s.cfg s.crcOff body ∧
      (s.frameSent body ok rest).cbLen.toNat = (frameBytes s.cfg s.crcOff body).length ∧
      (s.frameSent body ok rest).cb.length = 9 := by
  have hlen := frameBytes_length_le s.cfg s.crcOff h
  rw [frameSent_eq]
  exact ⟨loadFrame_take _ hlen, Nat.mod_eq_of_lt (Nat.lt_of_le_of_lt hlen (by decide)), loadFrame_cb_length _ hlen⟩

theorem sendBurst_answered {s : State} {a : Answer} {rest : List Answer} (h : s.oracle = a :: rest) (bs : List Byte) :
    sendBurst bs s = (if a = Answer.err then .fail (.transportError s.h.length) else .ok (),
      { s with oracle := rest }.log (.w bs (decide (a ≠ Answer.err)))) := by
  cases a with
  | err => exact sendBurst_err h bs
  | good b => exact sendBurst_good h bs

/-- One burst, and no retry on `err` (R120). -/
theorem sendCommandBuffer_answered {s : State} {body : List Byte} (hlen : body.length ≤ 8) {a : Answer} {rest : List Answer}
    (h : s.oracle = a :: rest) :
    sendCommandBuffer (s.buildFrame body) =
      (if a = Answer.err then .fail (.transportError s.h.length) else .ok (), s.frameSent body (decide (a ≠ Answer.err)) rest) := by
  have hplayed := buildFrame_played s body
  have hlength : (s.buildFrame body).h.length = s.h.length := by rw [hplayed.history, List.append_nil]
  rw [sendCommandBuffer, buildFrame_take s hlen, sendBurst_answered (hplayed.oracle.trans h), hlength]
  rfl

/-! ## `SPI_CMD` -/

theorem spiCmd_of_some {s : State} {cmd : Byte} {c : CmdName} (h : s.cfg.opc.name? cmd = some c) (adr dat sz : Word) (clk : Bool) :
    spiCmd cmd adr dat sz clk s =
      sendCommandBuffer ({ s with cmd := cmd, clk := clk }.buildFrame (cmd :: payload c adr dat sz clk)) := by
  rw [spiCmd, h]

theorem spiCmd_of_none {s : State} {cmd : Byte} (h : s.cfg.opc.name? cmd = none) (adr dat sz : Word) (clk : Bool) :
    spiCmd cmd adr dat sz clk s = (.fail (.badCommand cmd), { s with cmd := cmd, clk := clk }.voidCommand) := by
  rw [spiCmd, h]

theorem exec_spiCmd {s : State} (hs : s.onBus) (cmd : Byte) (adr dat sz : Word) (clk : Bool) :
    exec (.spiCmd cmd adr dat sz clk) s = .next (conclude s.issuer (fun _ => .ok) (spiCmd cmd adr dat sz clk s)) :=
  runBus_of_onBus hs _ _

/-- With one of the eleven opcodes (R120). -/
theorem exec_spiCmd_code {s : State} (hs : s.onBus) (c : CmdName) (adr dat sz : Word) (clk : Bool) {a : Answer}
    {rest : List Answer} (h : s.oracle = a :: rest) :
    exec (.spiCmd (s.cfg.opc.code c) adr dat sz clk) s =
      .next (({ s with cmd := s.cfg.opc.code c, clk := clk }.frameSent (s.cfg.opc.code c :: payload c adr dat sz clk)
        (decide (a ≠ Answer.err)) rest).report s.issuer (if a = Answer.err then .fail (.transportError s.h.length) else .ok)) := by
  have hopc : s.cfg.opc.wf = true := by
    obtain ⟨_, _, _, hnodup, hzero, _⟩ := (cfg_wf_iff s.cfg).mp hs.1.1
    exact (opcMap_wf_iff _).mpr ⟨hnodup, hzero⟩
  have hsent := sendCommandBuffer_answered (s := { s with cmd := s.cfg.opc.code c, clk := clk })
    (commandBody_length_le (s.cfg.opc.code c) c adr dat sz clk) h
  rw [exec_spiCmd hs, spiCmd_of_some (name?_code hopc c), hsent]
  cases a <;> rfl

/-- With a byte that is no opcode (R132). -/
theorem exec_spiCmd_unknown {s : State} (hs : s.onBus) {cmd : Byte} (h : cmd ∉ s.cfg.opc.values) (adr dat sz : Word) (clk : Bool) :
    exec (.spiCmd cmd adr dat sz clk) s =
      .next ({ s with cmd := cmd, clk := clk }.voidCommand.report s.issuer (.fail (.badCommand cmd))) := by
  rw [exec_spiCmd hs, spiCmd_of_none (name?_eq_none h)]
  rfl

theorem code_mem_values (m : OpcMap) (c : CmdName) : m.code c ∈ m.values := by
  cases c <;> simp [OpcMap.code, OpcMap.values]

/-! ## The wire rows -/

/-- A widened value has the slices it had. -/
theorem extractLsb'_setWidth_of_le {n w : Nat} (h : n ≤ w) (x : BitVec n) (start len : Nat) :
    (x.setWidth w).extractLsb' start len = x.extractLsb' start len := by
  ext i hi
  simp only [BitVec.getElem_extractLsb', BitVec.getLsbD_setWidth, Bool.and_eq_right_iff_imp, decide_eq_true_eq]
  exact fun hx => Nat.lt_of_lt_of_le (BitVec.lt_of_getLsbD hx) h

theorem low24_setWidth (a : BitVec 24) : low24 (a.setWidth 32) = be24 a := by
  rw [low24, extractLsb'_setWidth_of_le (by decide), BitVec.extractLsb'_eq_self]

theorem low16_setWidth (a : BitVec 16) : low16 (a.setWidth 32) = be16 a := by
  rw [low16, extractLsb'_setWidth_of_le (by decide), BitVec.extractLsb'_eq_self]

/-- Below the clockless flag a 15-bit address leaves no bit to be or-ed into it. -/
theorem internalByte_setWidth (k : Bool) (a : BitVec 15) : internalByte (a.setWidth 32) k = internalHigh k a := by
  rw [internalByte_eq, extractLsb'_setWidth_of_le (by decide), internalHigh]
  simp

/-- A wire row is `SPI_CMD` with its opcode, and its encoding is that opcode with the payload of the operands (log entry 12). -/
theorem wireRow_eq_spiCmd (s : State) {i : Instr} (h : i.space = .command) :
    ∃ c adr dat sz clk, exec i s = exec (.spiCmd (s.cfg.opc.code c) adr dat sz clk) s ∧
      encode s.cfg.opc i = s.cfg.opc.code c :: payload c adr dat sz clk := by
  cases i with
  | cmdDmaWrite a sz =>
    exact ⟨.dmaWrite, _, _, _, _, rfl, by simp only [encode, payload, OpcMap.code, low24_setWidth, low16_setWidth]⟩
  | cmdDmaRead a sz =>
    exact ⟨.dmaRead, _, _, _, _, rfl, by simp only [encode, payload, OpcMap.code, low24_setWidth, low16_setWidth]⟩
  | cmdInternalWrite k a dat =>
    refine ⟨.internalWrite, _, _, _, _, rfl, ?_⟩
    simp only [encode, payload, OpcMap.code, internalByte_setWidth, extractLsb'_setWidth_of_le (show 15 ≤ 32 by decide) a,
      List.cons_append, List.nil_append]
  | cmdInternalRead k a =>
    refine ⟨.internalRead, _, _, _, _, rfl, ?_⟩
    simp only [encode, payload, OpcMap.code, internalByte_setWidth, extractLsb'_setWidth_of_le (show 15 ≤ 32 by decide) a]
  | cmdTerminate => exact ⟨.terminate, _, _, _, _, rfl, rfl⟩
  | cmdRepeat => exact ⟨.repeat_, _, _, _, _, rfl, rfl⟩
  | cmdDmaExtWrite a sz => exact ⟨.dmaExtWrite, _, _, _, _, rfl, by simp only [encode, payload, OpcMap.code, low24_setWidth]⟩
  | cmdDmaExtRead a sz => exact ⟨.dmaExtRead, _, _, _, _, rfl, by simp only [encode, payload, OpcMap.code, low24_setWidth]⟩
  | cmdSingleWrite a dat => exact ⟨.singleWrite, _, _, _, _, rfl, by simp only [encode, payload, OpcMap.code, low24_setWidth]⟩
  | cmdSingleRead a => exact ⟨.singleRead, _, _, _, _, rfl, by simp only [encode, payload, OpcMap.code, low24_setWidth]⟩
  | cmdReset => exact ⟨.reset, _, _, _, _, rfl, rfl⟩
  | _ => cases h

/-! ## The statements -/

/-- Settles O13: a wire row is `SPI_CMD` with one of the eleven opcodes. -/
theorem elevenCommandsSendTheirFrames : Obligations.ElevenCommandsSendTheirFrames := by
  intro s i bs rest hi hs ho body frame
  obtain ⟨c, adr, dat, sz, clk, hexec, hbody⟩ := wireRow_eq_spiCmd s hi
  obtain ⟨htake, hlen, hcb⟩ := frameSent_buffer { s with cmd := s.cfg.opc.code c, clk := clk }
    (commandBody_length_le (s.cfg.opc.code c) c adr dat sz clk) true rest
  simp only [frame, body, hexec, hbody, exec_spiCmd_code hs c adr dat sz clk ho]
  refine ⟨_, rfl, ?_, htake, hlen, hcb, ?_⟩ <;> simp only [frameSent_eq]
  · exact ⟨rfl, rfl, rfl, ⟨rfl, rfl, rfl, rfl, rfl, rfl, rfl, rfl⟩⟩
  · exact ⟨rfl, rfl, ⟨rfl, rfl⟩, ⟨rfl, rfl, rfl⟩, rfl, rfl, ⟨rfl, rfl, rfl, rfl⟩, rfl, fun _ _ => rfl⟩

/-- Settles O14: the one burst is `sendCommandBuffer`'s, and its answer is the result. -/
theorem spiCmdSendsOneBurst : Obligations.SpiCmdSendsOneBurst := by
  intro s c adr dat sz clk a rest hs ho body frame
  obtain ⟨htake, hlen, _⟩ := frameSent_buffer { s with cmd := s.cfg.opc.code c, clk := clk }
    (commandBody_length_le (s.cfg.opc.code c) c adr dat sz clk) (decide (a ≠ Answer.err)) rest
  refine ⟨_, exec_spiCmd_code hs c adr dat sz clk ho, ?_, htake, hlen, ?_⟩ <;> simp only [frameSent_eq]
  · exact ⟨rfl, rfl, rfl, ⟨rfl, rfl, rfl, rfl, rfl, rfl, rfl, rfl⟩⟩
  · exact ⟨rfl, rfl, rfl, ⟨rfl, rfl⟩, ⟨rfl, rfl, rfl⟩, rfl, rfl, ⟨rfl, rfl, rfl, rfl⟩, rfl, fun _ _ => rfl⟩

/-- Settles O15: such a byte selects no command, and `CB` and `CBLEN` are drawn. -/
theorem unknownCommandFails : Obligations.UnknownCommandFails := by
  intro s cmd adr dat sz clk hs hcmd
  refine ⟨⟨_, _, _, exec_spiCmd_unknown hs hcmd adr dat sz clk, rfl, freeBytes_length 9 _, ?_⟩, code_mem_values s.cfg.opc⟩
  rw [BitVec.toNat_ofNat]
  omega

/-- Settles O16: the last byte is the CRC byte. -/
theorem crcModeDropsLastByte : Obligations.CrcModeDropsLastByte := by
  intro s c adr dat sz clk bs rest hs ho
  have hdrop : (frameBytes s.cfg false (s.cfg.opc.code c :: payload c adr dat sz clk)).dropLast =
      s.cfg.opc.code c :: payload c adr dat sz clk := List.dropLast_concat
  have hlen : (frameBytes s.cfg false (s.cfg.opc.code c :: payload c adr dat sz clk)).length = npay c + 2 := by
    simp [frameBytes, payload_length]
  refine ⟨_, _, frameBytes s.cfg false (s.cfg.opc.code c :: payload c adr dat sz clk),
    exec_spiCmd_code (s := { s with crcOff := false }) hs c adr dat sz clk ho,
    exec_spiCmd_code (s := { s with crcOff := true }) hs c adr dat sz clk ho, ?_, ?_, ?_, ?_, ?_⟩
  · rw [report_h, frameSent_h]
    rfl
  · rw [report_h, frameSent_h, hdrop]
    rfl
  · rw [report_crc, frameSent_crc]
    rfl
  · rw [hlen]
    cases c <;> decide
  · rw [hdrop, List.length_cons, payload_length]
    cases c <;> decide

end Sys2Proof.Machine
end

section
/-! PROOFS. Responses matched (41_spi_command R134, 60_exceptions R221, R223): a response loop that finds its byte, one that runs out of
retries, one whose read fails; the two loops of `SPI_CMD_RSP`; and what `SPI_CMD_RSP` does whatever the transport answers. -/

namespace Sys2Proof.Machine

/-! ## The state after response loops -/

theorem readsOf_append (xs ys : List Byte) : readsOf (xs ++ ys) = readsOf xs ++ readsOf ys := List.map_append

/-- After response loops with these events, the last of which counted `n` misses and read `b` last. -/
def State.afterResponse (s : State) (evs : List Event) (b : Byte) (n : Nat) (rest : List Answer) : State :=
  { s with h := s.h ++ evs, oracle := rest, rsp := b, rk := BitVec.ofNat 4 n }

/-- A loop begins with `RK <- 0`. -/
theorem afterReads_eq_afterResponse (s : State) (misses : List Byte) (b : Byte) (rest : List Answer) :
    { s with rk := 0 }.afterReads misses b rest = s.afterResponse (readsOf (misses ++ [b])) b misses.length rest :=
  congrArg (fun n => { s with h := s.h ++ readsOf (misses ++ [b]), oracle := rest, rsp := b, rk := n }) (BitVec.zero_add _)

/-- Of one loop after another the registers show the second alone. -/
theorem afterResponse_afterResponse (s : State) (e1 e2 : List Event) (b1 b2 : Byte) (n1 n2 : Nat) (r1 r2 : List Answer) :
    (s.afterResponse e1 b1 n1 r1).afterResponse e2 b2 n2 r2 = s.afterResponse (e1 ++ e2) b2 n2 r2 := by
  simp only [State.afterResponse, List.append_assoc]

theorem afterResponse_played (s : State) (evs : List Event) (b : Byte) (n : Nat) (rest : List Answer) :
    Played s (s.afterResponse evs b n rest) evs rest s.mem :=
  ⟨rfl, rfl, rfl, rfl, ⟨rfl, rfl, rfl, rfl, rfl, rfl, rfl, rfl⟩⟩

/-- All that response loops change, with the result given. -/
theorem afterResponse_report (s : State) (evs : List Event) (b : Byte) (n : Nat) (rest : List Answer) (res : Result) :
    let t := (s.afterResponse evs b n rest).report s.issuer res
    s.Did t s.issuer evs rest res ∧ t.rsp = b ∧ t.rk = BitVec.ofNat 4 n ∧ s.SameCommand t ∧ s.SamePhase t ∧
      t.order = s.order ∧ t.att = s.att ∧ s.SameBlock t ∧ t.tmp = s.tmp ∧ s.SameBytes t :=
  ⟨⟨rfl, rfl, rfl, ⟨rfl, rfl, rfl, rfl, rfl, rfl, rfl, rfl⟩⟩, rfl, rfl, ⟨rfl, rfl, rfl, rfl, rfl⟩, ⟨rfl, rfl, rfl⟩, rfl, rfl,
    ⟨rfl, rfl, rfl, rfl⟩, rfl, fun _ _ => rfl⟩

theorem did_of_played {s t : State} {evs : List Event} {rest : List Answer} {m : Memory} (h : Played s t evs rest m) (res : Result) :
    s.Did (t.report s.issuer res) s.issuer evs rest res where
  history := h.history
  oracle := h.oracle
  results := congrArg (· ++ [(s.issuer, res)]) h.results
  outside := by
    obtain ⟨hcfg, hcrc, hlock, hseqs, hlens, hport, hissuer, hsched⟩ := h.outside
    exact ⟨hcfg, hcrc, hlock, hseqs, hlens, hport, hissuer, hsched⟩

/-! ## One loop that awaits the byte `w` -/

section
variable {w : Byte} (cause : Byte → Cause) {misses : List Byte} (hmiss : ∀ x ∈ misses, x ≠ w) {s : State} {rest : List Answer}
include hmiss

theorem awaitByte_found (hk : misses.length ≤ s.cfg.rspRetry) (ho : s.oracle = scriptOf (readsOf (misses ++ [w])) ++ rest) :
    awaitByte (fun b => decide (b = w)) cause s =
      (.ok (), s.afterResponse (readsOf (misses ++ [w])) w misses.length rest) := by
  have hread := awaitByte_reads (accept := fun b => decide (b = w)) cause (fun x hx => decide_eq_false (hmiss x hx)) w hk (by simp) ho
  rw [hread, afterReads_eq_afterResponse, if_pos (decide_eq_true rfl)]

/-- The last read that `RSP_RETRY` allows brings another byte. -/
theorem awaitByte_exhausted (hk : misses.length = s.cfg.rspRetry) {b : Byte} (hb : b ≠ w)
    (ho : s.oracle = scriptOf (readsOf (misses ++ [b])) ++ rest) :
    awaitByte (fun b => decide (b = w)) cause s =
      (.fail (cause b), s.afterResponse (readsOf (misses ++ [b])) b misses.length rest) := by
  have hread := awaitByte_reads (accept := fun b => decide (b = w)) cause (fun x hx => decide_eq_false (hmiss x hx)) b hk.le
    (fun _ => hk) ho
  rw [hread, afterReads_eq_afterResponse, if_neg (by simp [hb])]

end

/-- After a read of another byte than the awaited one, counted in `RK`. -/
def State.missed (s : State) (x : Byte) (rest : List Answer) : State :=
  { { { s with oracle := rest }.log (.r 1 (some [x])) with rsp := x } with rk := s.rk + 1 }

theorem missed_played (s : State) (x : Byte) (rest : List Answer) :
    Played s (s.missed x rest) [.r 1 (some [x])] rest s.mem :=
  ⟨rfl, rfl, rfl, rfl, ⟨rfl, rfl, rfl, rfl, rfl, rfl, rfl, rfl⟩⟩

/-- A read answered `err` ends a loop at once, whatever retries remain (60_exceptions R223). -/
theorem awaitLoop_err {accept : Byte → Bool} (cause : Byte → Cause) {misses : List Byte} (hmiss : ∀ x ∈ misses, accept x = false)
    {k : Nat} (hk : misses.length ≤ k) {s : State} {rest : List Answer} (ho : s.oracle = scriptOf (readsOf misses) ++ .err :: rest) :
    ∃ t, awaitLoop accept cause k s = (.fail (.transportError (s.h.length + misses.length)), t) ∧
      Played s t (readsOf misses ++ [.r 1 none]) rest s.mem := by
  induction misses generalizing k s with
  | nil =>
    refine ⟨{ s with oracle := rest }.log (.r 1 none), ?_, rfl, rfl, rfl, rfl, ⟨rfl, rfl, rfl, rfl, rfl, rfl, rfl, rfl⟩⟩
    cases k <;> exact andThen_of_fail (readRsp_err ho)
  | cons x misses ih =>
    obtain ⟨hx, hmiss⟩ := List.forall_mem_cons.mp hmiss
    cases k with
    | zero => exact absurd hk (by simp)
    | succ k =>
      rw [awaitLoop, andThen_of_ok (readRsp_good ho), if_neg (by simp [hx])]
      obtain ⟨t, ht, hp⟩ := ih (k := k) hmiss (by simpa using hk) (s := s.missed x (scriptOf (readsOf misses) ++ .err :: rest)) rfl
      have hplayed := played_trans (missed_played s x _) hp
      refine ⟨t, ht.trans ?_, hplayed⟩
      simp [State.missed, Nat.add_assoc, Nat.add_comm 1]

theorem awaitByte_err {w : Byte} (cause : Byte → Cause) {misses : List Byte} (hmiss : ∀ x ∈ misses, x ≠ w) {s : State}
    (hk : misses.length ≤ s.cfg.rspRetry) {rest : List Answer} (ho : s.oracle = scriptOf (readsOf misses) ++ .err :: rest) :
    ∃ t, awaitByte (fun b => decide (b = w)) cause s = (.fail (.transportError (s.h.length + misses.length)), t) ∧
      Played s t (readsOf misses ++ [.r 1 none]) rest s.mem := by
  obtain ⟨t, ht, hp⟩ := awaitLoop_err cause (accept := fun b => decide (b = w)) (fun x hx => decide_eq_false (hmiss x hx)) hk
    (s := { s with rk := 0 }) ho
  have hstart : Played s { s with rk := 0 } [] s.oracle s.mem :=
    played_of_eq rfl rfl rfl rfl ⟨rfl, rfl, rfl, rfl, rfl, rfl, rfl, rfl⟩
  have hplayed := played_trans hstart hp
  exact ⟨t, ht, hplayed⟩

/-! ## The two loops of `SPI_CMD_RSP` -/

theorem exec_spiCmdRsp {s : State} (hs : s.onBus) (cmd : Byte) :
    exec (.spiCmdRsp cmd) s = .next (conclude s.issuer (fun _ => .ok) (spiCmdRsp cmd s)) := runBus_of_onBus hs _ _

theorem spiCmdRsp_of_echoPhase_fail {cmd : Byte} {c : Cause} {s t : State} (h : echoPhase cmd s = (.fail c, t)) :
    spiCmdRsp cmd s = (.fail c, t) := andThen_of_fail h

section
variable {cmd : Byte} {es : List Byte} (hes : ∀ b ∈ es, b ≠ cmd) {s : State}
include hes

/-- The response up to its echo: the status loop runs from there, with the answers left. -/
theorem spiCmdRsp_echoed (hk : es.length ≤ s.cfg.rspRetry) {ss : List Byte} {rest : List Answer}
    (ho : s.oracle = scriptOf (readsOf (es ++ [cmd] ++ ss)) ++ rest) :
    spiCmdRsp cmd s =
      statusPhase cmd (s.afterResponse (readsOf (es ++ [cmd])) cmd es.length (scriptOf (readsOf ss) ++ rest)) := by
  rw [readsOf_append, scriptOf_append, List.append_assoc] at ho
  exact andThen_of_ok (awaitByte_found _ hes hk ho)

end

/-! ## Whatever the transport answers -/

/-- At least `n` one-byte reads have been made and nothing else done: besides what the transport uses up only `RSP` and `RK` are
written. -/
def OnlyReads (n : Nat) (s t : State) : Prop :=
  ∃ evs o d b k, t = { s with h := s.h ++ evs, oracle := o, draws := d, rsp := b, rk := k } ∧
    (∀ e ∈ evs, ∃ ans, e = .r 1 ans) ∧ n ≤ evs.length

theorem onlyReads_of_eq {s : State} {b : Byte} {k : BitVec 4} : OnlyReads 0 s { s with rsp := b, rk := k } :=
  ⟨[], s.oracle, s.draws, b, k, by rw [List.append_nil], by simp, le_refl 0⟩

theorem onlyReads_refl (s : State) : OnlyReads 0 s s := onlyReads_of_eq

theorem onlyReads_trans {n m : Nat} {s t u : State} (a : OnlyReads n s t) (b : OnlyReads m t u) : OnlyReads (n + m) s u := by
  obtain ⟨e1, o1, d1, b1, k1, rfl, h1, l1⟩ := a
  obtain ⟨e2, o2, d2, b2, k2, rfl, h2, l2⟩ := b
  refine ⟨e1 ++ e2, o2, d2, b2, k2, by rw [← List.append_assoc], fun e he => ?_, ?_⟩
  · exact (List.mem_append.mp he).elim (h1 e) (h2 e)
  · rw [List.length_append]
    omega

theorem onlyReads_andThen {n : Nat} {α β : Type} {x : Op α} {f : α → Op β} (hx : Keeps (OnlyReads n) x)
    (hf : ∀ a, Keeps (OnlyReads 0) (f a)) : Keeps (OnlyReads n) (andThen x f) := by
  intro s
  have h := hx s
  rcases hr : x s with ⟨a | e, t⟩ <;> rw [hr] at h
  · rw [andThen_of_ok hr]
    exact onlyReads_trans h (hf a t)
  · rw [andThen_of_fail hr]
    exact h

/-- However many reads there were. -/
theorem onlyReads_weaken {n : Nat} {s t : State} (h : OnlyReads n s t) : OnlyReads 0 s t := by
  obtain ⟨evs, o, d, b, k, ht, hr, _⟩ := h
  exact ⟨evs, o, d, b, k, ht, hr, Nat.zero_le _⟩

theorem readBurst_onlyReads : Keeps (OnlyReads 1) (readBurst 1) := by
  intro s
  rcases hs : s.answer with ⟨a, t⟩
  have ht : t = { s with oracle := t.oracle, draws := t.draws } := by
    have h := answer_state s
    rwa [hs] at h
  unfold readBurst txRead
  rw [hs]
  cases a with
  | err =>
    refine ⟨[.r 1 none], t.oracle, t.draws, s.rsp, s.rk, ?_, by simp, le_refl 1⟩
    rw [ht]
    rfl
  | good bs =>
    refine ⟨[.r 1 (some (fitBytes 1 t.draws bs))], t.oracle, t.draws + (1 - bs.length), s.rsp, s.rk, ?_, by simp, le_refl 1⟩
    rw [ht]
    rfl

theorem readRsp_onlyReads : Keeps (OnlyReads 1) readRsp :=
  onlyReads_andThen readBurst_onlyReads fun _ _ => onlyReads_of_eq

theorem awaitLoop_onlyReads (accept : Byte → Bool) (cause : Byte → Cause) (k : Nat) : Keeps (OnlyReads 1) (awaitLoop accept cause k) := by
  induction k with
  | zero =>
    refine onlyReads_andThen readRsp_onlyReads fun b => ?_
    split
    · exact keeps_give onlyReads_refl ()
    · exact keeps_raise onlyReads_refl _
  | succ k ih =>
    refine onlyReads_andThen readRsp_onlyReads fun b => ?_
    split
    · exact keeps_give onlyReads_refl ()
    · exact onlyReads_andThen (keeps_assign fun _ => onlyReads_of_eq) fun _ s => onlyReads_weaken (ih s)

theorem awaitByte_onlyReads (accept : Byte → Bool) (cause : Byte → Cause) : Keeps (OnlyReads 1) (awaitByte accept cause) := fun s =>
  onlyReads_trans (t := { s with rk := 0 }) onlyReads_of_eq (awaitLoop_onlyReads accept cause _ _)

theorem spiCmdRsp_onlyReads (cmd : Byte) : Keeps (OnlyReads 1) (spiCmdRsp cmd) :=
  onlyReads_andThen (awaitByte_onlyReads _ _) fun _ s => onlyReads_weaken (awaitByte_onlyReads _ _ s)

/-- The operation fails for a cause of this kind alone. -/
def FailsOnly (P : Cause → Prop) {α : Type} (x : Op α) : Prop := ∀ s c, (x s).1 = .fail c → P c

theorem failsOnly_mono {P Q : Cause → Prop} {α : Type} {x : Op α} (h : FailsOnly P x) (hpq : ∀ c, P c → Q c) : FailsOnly Q x :=
  fun s c hc => hpq c (h s c hc)

theorem failsOnly_andThen {P : Cause → Prop} {α β : Type} {x : Op α} {f : α → Op β} (hx : FailsOnly P x)
    (hf : ∀ a, FailsOnly P (f a)) : FailsOnly P (andThen x f) := by
  intro s c hc
  rcases hr : x s with ⟨a | e, t⟩
  · rw [andThen_of_ok hr] at hc
    exact hf a t c hc
  · rw [andThen_of_fail hr] at hc
    cases hc
    exact hx s _ (congrArg Prod.fst hr)

theorem failsOnly_give {P : Cause → Prop} {α : Type} (a : α) : FailsOnly P (give a) := fun _ _ hc => nomatch hc

theorem failsOnly_raise {P : Cause → Prop} {α : Type} {c : Cause} (h : P c) : FailsOnly P (raise (α := α) c) := by
  rintro _ _ ⟨⟩
  exact h

theorem failsOnly_assign {P : Cause → Prop} (f : State → State) : FailsOnly P (assign f) := fun _ _ hc => nomatch hc

/-- A read fails with the transport (60_exceptions R221). -/
theorem readRsp_failsOnly : FailsOnly (fun c => ∃ n, c = .transportError n) readRsp := by
  refine failsOnly_andThen (fun s c hc => ?_) fun _ _ _ hc => nomatch hc
  unfold readBurst at hc
  rcases hr : txRead 1 s with ⟨_ | bs, t⟩ <;> rw [hr] at hc <;> cases hc
  exact ⟨_, rfl⟩

/-- A response loop fails with the transport, or with its own cause when its retries are used up. -/
theorem awaitLoop_failsOnly (accept : Byte → Bool) (cause : Byte → Cause) (k : Nat) :
    FailsOnly (fun c => (∃ n, c = .transportError n) ∨ ∃ b, c = cause b) (awaitLoop accept cause k) := by
  have hread := failsOnly_mono readRsp_failsOnly (Q := fun c => (∃ n, c = .transportError n) ∨ ∃ b, c = cause b) fun _ => .inl
  induction k with
  | zero =>
    refine failsOnly_andThen hread fun b => ?_
    split
    · exact failsOnly_give ()
    · exact failsOnly_raise (.inr ⟨b, rfl⟩)
  | succ k ih =>
    refine failsOnly_andThen hread fun b => ?_
    split
    · exact failsOnly_give ()
    · exact failsOnly_andThen (failsOnly_assign _) fun _ => ih

theorem awaitByte_failsOnly (accept : Byte → Bool) (cause : Byte → Cause) :
    FailsOnly (fun c => (∃ n, c = .transportError n) ∨ ∃ b, c = cause b) (awaitByte accept cause) := fun _ c hc =>
  awaitLoop_failsOnly accept cause _ _ c hc

/-- The three causes of a response (41_spi_command R134). -/
theorem spiCmdRsp_failsOnly (cmd : Byte) :
    FailsOnly (fun c => (∃ n, c = .transportError n) ∨ (∃ b, c = .echoTimeout cmd b) ∨ ∃ b, c = .statusTimeout cmd b)
      (spiCmdRsp cmd) :=
  failsOnly_andThen (failsOnly_mono (awaitByte_failsOnly _ _) fun _ h => h.imp_right .inl) fun _ =>
    failsOnly_mono (awaitByte_failsOnly _ _) fun _ h => h.imp_right .inr

/-! ## The statements -/

/-- Settles O17: the echo loop finds the command, the status loop a zero. -/
theorem responseMatched : Obligations.ResponseMatched := by
  intro s cmd es ss rest hs hes hne hss hnz ho
  rw [List.append_assoc (es ++ [cmd])] at ho ⊢
  have hstatus := awaitByte_found (.statusTimeout cmd) hnz
    (s := s.afterResponse (readsOf (es ++ [cmd])) cmd es.length (scriptOf (readsOf (ss ++ [0])) ++ rest)) hss rfl
  rw [exec_spiCmdRsp hs, spiCmdRsp_echoed hne hes ho, statusPhase, hstatus, afterResponse_afterResponse, ← readsOf_append]
  exact ⟨_, rfl, afterResponse_report s _ 0 ss.length rest .ok⟩

/-- Settles O18: either loop runs out of retries, or its read fails. -/
theorem responseFails : Obligations.ResponseFails := by
  intro s cmd last es ss rest hs hne
  refine ⟨fun hes hlast ho => ?_, fun hes hss hnz hlast ho => ?_, fun hes ho => ?_, fun hes hss hnz ho => ?_⟩ <;> rw [exec_spiCmdRsp hs]
  · have hecho := awaitByte_exhausted (.echoTimeout cmd) hne hes hlast ho
    rw [spiCmdRsp_of_echoPhase_fail hecho, ← hes]
    exact ⟨_, rfl, afterResponse_report s _ last es.length rest _⟩
  · rw [List.append_assoc (es ++ [cmd])] at ho ⊢
    have hstatus := awaitByte_exhausted (.statusTimeout cmd) hnz
      (s := s.afterResponse (readsOf (es ++ [cmd])) cmd es.length (scriptOf (readsOf (ss ++ [last])) ++ rest)) hss hlast rfl
    rw [spiCmdRsp_echoed hne hes ho, statusPhase, hstatus, afterResponse_afterResponse, ← readsOf_append, ← hss]
    exact ⟨_, rfl, afterResponse_report s _ last ss.length rest _⟩
  · obtain ⟨t, ht, hp⟩ := awaitByte_err (.echoTimeout cmd) hne hes ho
    rw [spiCmdRsp_of_echoPhase_fail ht]
    exact ⟨_, rfl, did_of_played hp _⟩
  · obtain ⟨t, ht, hp⟩ := awaitByte_err (.statusTimeout cmd) hnz
      (s := s.afterResponse (readsOf (es ++ [cmd])) cmd es.length (scriptOf (readsOf ss) ++ .err :: rest)) hss rfl
    have hindex : (s.afterResponse (readsOf (es ++ [cmd])) cmd es.length (scriptOf (readsOf ss) ++ .err :: rest)).h.length =
        s.h.length + es.length + 1 := by
      simp [State.afterResponse, readsOf, Nat.add_assoc]
    rw [spiCmdRsp_echoed hne hes ho, statusPhase, ht, hindex, readsOf_append, List.append_assoc]
    exact ⟨_, rfl, did_of_played (played_trans (afterResponse_played s _ cmd es.length _) hp) _⟩

/-- Settles O19: each row is one loop, which finds its byte. -/
theorem responsePhasesComplete : Obligations.ResponsePhasesComplete := by
  intro s awaited i es rest hs hi hes hne ho
  obtain ⟨cause, hexec⟩ : ∃ cause, exec i s = runBus s (awaitByte (fun b => decide (b = awaited)) cause) (fun _ => .ok) := by
    rcases hi with rfl | ⟨rfl, rfl⟩
    · exact ⟨_, rfl⟩
    · exact ⟨_, rfl⟩
  rw [hexec, runBus_of_onBus hs, awaitByte_found cause hne hes ho]
  exact ⟨_, rfl, afterResponse_report s _ awaited es.length rest .ok⟩

/-- Settles O20: one-byte reads are all that `SPI_CMD_RSP` does, at least one, and R176's bound is `spiCmdRsp_bounded`'s. -/
theorem responseIsBounded : Obligations.ResponseIsBounded := by
  intro s cmd hs
  obtain ⟨_, hbound, _⟩ := spiCmdRsp_bounded s.cfg cmd s rfl
  have hreads := spiCmdRsp_onlyReads cmd s
  have hcause := spiCmdRsp_failsOnly cmd s
  rw [exec_spiCmdRsp hs]
  rcases hr : spiCmdRsp cmd s with ⟨res, t⟩
  rw [hr] at hbound hreads hcause
  obtain ⟨evs, o, d, b, k, rfl, hread, hone⟩ := hreads
  have hmost : evs.length ≤ 2 * (s.cfg.rspRetry + 1) := by simpa using hbound
  cases res with
  | ok a =>
    exact ⟨_, evs, .ok, rfl, rfl, hread, hone, hmost, rfl, .inl rfl, ⟨rfl, rfl, rfl, rfl, rfl, rfl, rfl, rfl⟩,
      ⟨rfl, rfl, rfl, rfl, rfl⟩, ⟨rfl, rfl, rfl⟩, rfl, rfl, ⟨rfl, rfl, rfl, rfl⟩, rfl, fun _ _ => rfl⟩
  | fail c =>
    refine ⟨_, evs, .fail c, rfl, rfl, hread, hone, hmost, rfl, .inr ?_, ⟨rfl, rfl, rfl, rfl, rfl, rfl, rfl, rfl⟩,
      ⟨rfl, rfl, rfl, rfl, rfl⟩, ⟨rfl, rfl, rfl⟩, rfl, rfl, ⟨rfl, rfl, rfl, rfl⟩, rfl, fun _ _ => rfl⟩
    simpa only [Result.fail.injEq] using hcause c rfl

end Sys2Proof.Machine
end

section
/-! PROOFS. Pieces counted out (42_spi_data R152, 44_bus R196): `piecesOf` cuts a sequence into the slices `sliceOf`, `pieceCount` of
them, which tile it; and how many bursts a write data phase of them has (30_encoding R84). -/

namespace Sys2Proof.Machine

/-! ## Slices -/

theorem pieceCount_zero {n : Nat} (hn : 1 ≤ n) : pieceCount n 0 = 0 := Nat.div_eq_of_lt (by omega)

/-- The first piece, and those of what it leaves. -/
theorem pieceCount_step {n len : Nat} (hn : 1 ≤ n) (hlen : 1 ≤ len) : pieceCount n len = pieceCount n (len - n) + 1 := by
  rcases Nat.le_total len n with h | h
  · rw [Nat.sub_eq_zero_of_le h, pieceCount_zero hn]
    exact Nat.div_eq_of_lt_le (by omega) (by omega)
  · unfold pieceCount
    rw [← Nat.add_div_right _ hn]
    congr 1
    omega

/-- Every counted piece begins inside the sequence. -/
theorem mul_lt_of_lt_pieceCount {n len k : Nat} (hn : 1 ≤ n) (hk : k < pieceCount n len) : n * k < len := by
  have h := (Nat.le_div_iff_mul_le hn).mp (Nat.succ_le_of_lt hk)
  rw [Nat.succ_mul, Nat.mul_comm] at h
  omega

theorem sliceOf_length (n : Nat) (bs : List Byte) (k : Nat) : (sliceOf n bs k).length = min n (bs.length - n * k) := by
  simp [sliceOf]

theorem sliceOf_zero (n : Nat) (bs : List Byte) : sliceOf n bs 0 = bs.take n := rfl

theorem sliceOf_succ (n : Nat) (bs : List Byte) (k : Nat) : sliceOf n bs (k + 1) = sliceOf n (bs.drop n) k := by
  rw [sliceOf, sliceOf, List.drop_drop, Nat.mul_succ, Nat.add_comm]

/-- The pieces are the slices, in order. -/
theorem piecesOf_eq_slices {n k : Nat} (hn : 1 ≤ n) {bs : List Byte} (hk : bs.length ≤ k) :
    piecesOf n k bs = (List.range (pieceCount n bs.length)).map (sliceOf n bs) := by
  induction k generalizing bs with
  | zero =>
    obtain rfl := List.length_eq_zero_iff.mp (Nat.le_zero.mp hk)
    rw [List.length_nil, pieceCount_zero hn]
    rfl
  | succ k ih =>
    rcases eq_or_ne bs [] with rfl | hbs
    · rw [List.length_nil, pieceCount_zero hn]
      rfl
    · have hpos := List.length_pos_iff.mpr hbs
      rw [piecesOf, if_neg hbs, ih (by rw [List.length_drop]; omega), pieceCount_step hn hpos, List.range_succ_eq_map,
        List.map_cons, List.map_map, sliceOf_zero, List.length_drop]
      congr 2
      exact funext fun i => (sliceOf_succ n bs i).symm

theorem piecesOf_map_eq_slices {α : Type} {n : Nat} (hn : 1 ≤ n) (f : List Byte → α) (bs : List Byte) :
    (piecesOf n bs.length bs).map f = (List.range (pieceCount n bs.length)).map fun k => f (sliceOf n bs k) := by
  rw [piecesOf_eq_slices hn (le_refl _), List.map_map]
  rfl

theorem piecesOf_length {n k : Nat} (hn : 1 ≤ n) {bs : List Byte} (hk : bs.length ≤ k) :
    (piecesOf n k bs).length = pieceCount n bs.length := by
  rw [piecesOf_eq_slices hn hk, List.length_map, List.length_range]

theorem piecesOf_getElem? {n : Nat} (hn : 1 ≤ n) {bs : List Byte} {k : Nat} (hk : k < pieceCount n bs.length) :
    (piecesOf n bs.length bs)[k]? = some (sliceOf n bs k) := by
  rw [piecesOf_eq_slices hn (le_refl _), List.getElem?_map, List.getElem?_range hk]
  rfl

/-- All slices but the last are full. -/
theorem sliceOf_full {n : Nat} (hn : 1 ≤ n) {bs : List Byte} {k : Nat} (hk : k + 1 < pieceCount n bs.length) :
    (sliceOf n bs k).length = n := by
  have h := mul_lt_of_lt_pieceCount hn hk
  rw [Nat.mul_succ] at h
  rw [sliceOf_length]
  omega

/-- The slices of a sequence tile it (R152, R196). -/
theorem tiles_slices {n : Nat} (hn : 1 ≤ n) (bs : List Byte) : Tiles n bs where
  whole := by rw [← piecesOf_eq_slices hn (le_refl _), piecesOf_flatten hn (le_refl _)]
  full := fun _ hk => sliceOf_full hn hk
  last := fun k hk => by
    have hlow := mul_lt_of_lt_pieceCount hn (k := k) (len := bs.length) (by omega)
    have hhigh := le_mul_pieceCount hn bs.length
    rw [← hk, Nat.mul_succ] at hhigh
    rw [sliceOf_length]
    omega

/-! ## Blocks of one length -/

/-- The header of write frame `k` of `count`: `f3` on the last or only one, `f1` on the first of several, else `f2` (R151). -/
def frameHeader (count k : Nat) : Byte := if k + 1 = count then 0xF3 else if k = 0 then 0xF1 else 0xF2

/-- The frames after the first are headed as the later ones of one more. -/
theorem laterFrames_eq_mapIdx (off : Bool) (ps : List (List Byte)) :
    laterFrames off ps = (ps.mapIdx fun k p => writeFrameEvents off (frameHeader (ps.length + 1) (k + 1)) p).flatten := by
  induction ps with
  | nil => rfl
  | cons p ps ih =>
    rcases eq_or_ne ps [] with rfl | hps
    · simp [laterFrames, frameHeader]
    · have hpos := List.length_pos_iff.mpr hps
      rw [laterFrames_cons off p hps, List.mapIdx_cons, List.flatten_cons, ih]
      have hhead : frameHeader ((p :: ps).length + 1) (0 + 1) = 0xF2 := by
        rw [frameHeader, List.length_cons, if_neg (by omega), if_neg (by omega)]
      have hshift : ∀ k, frameHeader (ps.length + 1) (k + 1) = frameHeader ((p :: ps).length + 1) (k + 1 + 1) := fun k => by
        simp [frameHeader]
      simp only [hhead, hshift]

/-- A write data phase frame by frame. -/
theorem writePhase_eq_mapIdx (off : Bool) (ps : List (List Byte)) :
    writePhase off ps = (ps.mapIdx fun k p => writeFrameEvents off (frameHeader ps.length k) p).flatten := by
  cases ps with
  | nil => rfl
  | cons p ps =>
    rcases eq_or_ne ps [] with rfl | hps
    · simp [writePhase, frameHeader]
    · have hpos := List.length_pos_iff.mpr hps
      have hhead : frameHeader (p :: ps).length 0 = 0xF1 := by
        rw [frameHeader, List.length_cons, if_neg (by omega), if_pos rfl]
      rw [writePhase_cons off p hps, laterFrames_eq_mapIdx, List.mapIdx_cons, List.flatten_cons, hhead]
      rfl

theorem length_flatten_of_forall {α : Type} {w : Nat} {L : List (List α)} (h : ∀ l ∈ L, l.length = w) :
    L.flatten.length = w * L.length := by
  induction L with
  | nil => rfl
  | cons l L ih =>
    obtain ⟨hl, hL⟩ := List.forall_mem_cons.mp h
    rw [List.flatten_cons, List.length_append, hl, ih hL, List.length_cons, Nat.mul_succ, Nat.add_comm]

/-- Entry `i` of block `k`, where all blocks have `w` entries. -/
theorem getElem?_flatten_of_forall {α : Type} {w : Nat} {L : List (List α)} (h : ∀ l ∈ L, l.length = w) {k i : Nat} {l : List α}
    (hk : L[k]? = some l) (hi : i < w) : L.flatten[w * k + i]? = l[i]? := by
  induction L generalizing k with
  | nil => cases hk
  | cons x L ih =>
    obtain ⟨hx, hL⟩ := List.forall_mem_cons.mp h
    rw [List.flatten_cons]
    cases k with
    | zero =>
      obtain rfl : x = l := Option.some.inj hk
      rw [Nat.mul_zero, Nat.zero_add, List.getElem?_append_left (by omega)]
    | succ k =>
      rw [List.getElem?_append_right (by rw [Nat.mul_succ]; omega), hx, Nat.mul_succ, Nat.add_right_comm, Nat.add_sub_cancel]
      exact ih hL hk

/-! ## The bursts of a write data phase -/

theorem writeFrameEvents_length (off : Bool) (header : Byte) (body : List Byte) :
    (writeFrameEvents off header body).length = frameBursts (!off) := by cases off <;> rfl

theorem writeFrames_mapIdx_length (off : Bool) (header : Nat → Byte) (ps : List (List Byte)) :
    ∀ evs ∈ ps.mapIdx fun k p => writeFrameEvents off (header k) p, evs.length = frameBursts (!off) := by
  intro evs hevs
  obtain ⟨k, hk, rfl⟩ := List.mem_mapIdx.mp hevs
  exact writeFrameEvents_length off _ _

theorem writePhase_length (off : Bool) (ps : List (List Byte)) : (writePhase off ps).length = frameBursts (!off) * ps.length := by
  rw [writePhase_eq_mapIdx, length_flatten_of_forall (writeFrames_mapIdx_length off _ ps), List.length_mapIdx]

/-- There is one answer for each burst of a write data phase. -/
theorem writeAnswers_eq {c : Cfg} (hp : 1 ≤ c.dataPktSz) (off : Bool) {n : Nat} {bs : List Byte} (hlen : bs.length = n) :
    writeAnswers c off n = List.replicate (writePhase off (piecesOf c.dataPktSz n bs)).length (.good []) := by
  subst hlen
  rw [writePhase_length, piecesOf_length hp (le_refl _), writeAnswers]
  cases off <;> rfl

end Sys2Proof.Machine
end

section
/-! PROOFS. `SPI_DATA_WRITE` (42_spi_data R151, R152): the bytes it reads from the buffer, and the bursts it sends for them, all of them
or up to the first that answers `err`. -/

namespace Sys2Proof.Machine

/-! ## Bytes read from a buffer (log entry 8) -/

/-- A run of bytes is read as its first part and then the rest, the draws going on. -/
theorem readRun_add (m : Memory) (buf : BufId) (n k a d : Nat) :
    m.readRun buf (n + k) a d =
      ((m.readRun buf n a d).1 ++ (m.readRun buf k (a + n) (m.readRun buf n a d).2).1,
        (m.readRun buf k (a + n) (m.readRun buf n a d).2).2) := by
  induction n generalizing a d with
  | zero => simp [Memory.readRun]
  | succ n ih =>
    rw [Nat.succ_add, Memory.readRun, Memory.readRun]
    split <;> rw [ih] <;> simp [Nat.add_assoc, Nat.add_comm 1]

/-- A byte that holds a value is read as that value, wherever the others are drawn. -/
theorem readRun_getElem? {m : Memory} {buf : BufId} {n a d k : Nat} (hk : k < n) {b : Byte} (hb : m.get? buf (a + k) = some b) :
    (m.readRun buf n a d).1[k]? = some b := by
  induction n generalizing a d k with
  | zero => omega
  | succ n ih =>
    rw [Memory.readRun]
    cases k with
    | zero =>
      rw [Nat.add_zero] at hb
      rw [hb]
      rfl
    | succ k =>
      rw [Nat.add_comm k, ← Nat.add_assoc] at hb
      split <;> exact ih (by omega) hb

/-- The first piece of a run, and those of the rest. -/
theorem piecesOf_readRun {n rem : Nat} (h : n < rem) (m : Memory) (buf : BufId) (fuel a d : Nat) :
    piecesOf n (fuel + 1) (m.readRun buf rem a d).1 =
      (m.readRun buf n a d).1 :: piecesOf n fuel (m.readRun buf (rem - n) (a + n) (m.readRun buf n a d).2).1 := by
  have hsplit := readRun_add m buf n (rem - n) a d
  have hfirst := readRun_length m buf n a d
  rw [Nat.add_sub_of_le h.le] at hsplit
  rw [piecesOf_more (by rwa [readRun_length]), hsplit, List.take_left' hfirst, List.drop_left' hfirst]

theorem readRun_agrees (s : State) (buf : BufId) (a n d : Nat) : s.agrees buf a (s.mem.readRun buf n a d).1 := fun k hk b hb =>
  readRun_getElem? (by rwa [readRun_length] at hk) hb

/-! ## Operations that send bursts -/

/-- What a write data phase looks at, and what it writes but for the history, the oracle and `NB`. -/
structure WriteView where
  cfg : Cfg
  crcOff : Bool
  mem : Memory
  draws : Nat
  ix : BitVec 16
  rem : BitVec 16
  order : BitVec 2

def State.writeView (s : State) : WriteView := ⟨s.cfg, s.crcOff, s.mem, s.draws, s.ix, s.rem, s.order⟩

/-- `IX` and `REM` set. -/
def WriteView.setPhase (v : WriteView) (ix rem : Nat) : WriteView := { v with ix := BitVec.ofNat 16 ix, rem := BitVec.ofNat 16 rem }

/-- From `s` to `t` these events have happened, the oracle has been used up to `rest`, and besides only the registers of a write data
phase and the draw counter are written. -/
def Sent (s t : State) (evs : List Event) (rest : List Answer) : Prop :=
  ∃ d i r n o, t = { s with h := s.h ++ evs, oracle := rest, draws := d, ix := i, rem := r, nb := n, order := o }

theorem sent_trans {s t u : State} {e1 e2 : List Event} {r1 r2 : List Answer} (a : Sent s t e1 r1) (b : Sent t u e2 r2) :
    Sent s u (e1 ++ e2) r2 := by
  obtain ⟨_, _, _, _, _, rfl⟩ := a
  obtain ⟨d, i, r, n, o, rfl⟩ := b
  exact ⟨d, i, r, n, o, by rw [← List.append_assoc]⟩

theorem sent_h_length {s t : State} {evs : List Event} {rest : List Answer} (h : Sent s t evs rest) :
    t.h.length = s.h.length + evs.length := by
  obtain ⟨_, _, _, _, _, rfl⟩ := h
  exact List.length_append

theorem sent_oracle {s t : State} {evs : List Event} {rest : List Answer} (h : Sent s t evs rest) : t.oracle = rest := by
  obtain ⟨_, _, _, _, _, rfl⟩ := h
  rfl

/-- In a state that looks like `v` the operation sends these bursts one after the other: when all are answered `ok` it succeeds with
`a` in a state that looks like `v'`; the first that is answered `err` ends it, and the cause names that burst (60_exceptions R221,
R223). -/
structure Sends {α : Type} (x : Op α) (evs : List Event) (a : α) (v v' : WriteView) : Prop where
  accepted : ∀ s rest, s.writeView = v → s.oracle = List.replicate evs.length (.good []) ++ rest →
    ∃ t, x s = (.ok a, t) ∧ Sent s t evs rest ∧ t.writeView = v'
  refused : ∀ s j rest, s.writeView = v → j < evs.length → s.oracle = List.replicate j (.good []) ++ .err :: rest →
    ∃ t burst, x s = (.fail (.transportError (s.h.length + j)), t) ∧ evs[j]? = some (.w burst true) ∧
      Sent s t (evs.take j ++ [.w burst false]) rest

section
variable {α β : Type} {x y : Op α} {f : α → Op β} {evs e1 e2 : List Event} {a : α} {b : β} {v v1 v2 : WriteView}

/-- An operation that sends nothing. -/
theorem sends_nothing (h : ∀ s, s.writeView = v → ∃ t, x s = (.ok a, t) ∧ Sent s t [] s.oracle ∧ t.writeView = v1) :
    Sends x [] a v v1 where
  accepted := fun s rest hs ho => by
    obtain ⟨t, hx, hsent, hv⟩ := h s hs
    exact ⟨t, hx, by simpa [ho] using hsent, hv⟩
  refused := fun _ _ _ _ hj _ => absurd hj (Nat.not_lt_zero _)

theorem sends_give (a : α) (v : WriteView) : Sends (give a) [] a v v :=
  sends_nothing fun s hs => ⟨s, rfl, ⟨_, _, _, _, _, by rw [List.append_nil]⟩, hs⟩

theorem sends_assign {g : State → State} (h : ∀ s, s.writeView = v → Sent s (g s) [] s.oracle ∧ (g s).writeView = v1) :
    Sends (assign g) [] () v v1 := sends_nothing fun s hs => ⟨g s, rfl, h s hs⟩

/-- The bursts of one operation after those of another. -/
theorem sends_andThen (hx : Sends x e1 a v v1) (hf : Sends (f a) e2 b v1 v2) : Sends (andThen x f) (e1 ++ e2) b v v2 where
  accepted := fun s rest hs ho => by
    rw [List.length_append, ← List.replicate_append_replicate, List.append_assoc] at ho
    obtain ⟨t, ht, hsent, hv⟩ := hx.accepted s _ hs ho
    obtain ⟨u, hu, hsent', hv'⟩ := hf.accepted t rest hv (sent_oracle hsent)
    exact ⟨u, (andThen_of_ok ht).trans hu, sent_trans hsent hsent', hv'⟩
  refused := fun s j rest hs hj ho => by
    rcases Nat.lt_or_ge j e1.length with hlt | hge
    · obtain ⟨t, burst, ht, hburst, hsent⟩ := hx.refused s j rest hs hlt ho
      refine ⟨t, burst, andThen_of_fail ht, ?_, ?_⟩
      · rw [List.getElem?_append_left hlt, hburst]
      · rwa [List.take_append_of_le_length hlt.le]
    · obtain ⟨k, rfl⟩ := Nat.exists_eq_add_of_le hge
      rw [List.length_append] at hj
      rw [← List.replicate_append_replicate, List.append_assoc] at ho
      obtain ⟨t, ht, hsent, hv⟩ := hx.accepted s _ hs ho
      obtain ⟨u, burst, hu, hburst, hsent'⟩ := hf.refused t k rest hv (by omega) (sent_oracle hsent)
      refine ⟨u, burst, ?_, ?_, ?_⟩
      · rw [andThen_of_ok ht, hu, sent_h_length hsent, Nat.add_assoc]
      · rw [List.getElem?_append_right hge, Nat.add_sub_cancel_left, hburst]
      · rw [List.take_length_add_append, List.append_assoc]
        exact sent_trans hsent hsent'

/-- An operation that looks at the state is the one it is in a state that looks so. -/
theorem sends_congr (h : ∀ s, s.writeView = v → x s = y s) (hy : Sends y evs a v v1) : Sends x evs a v v1 where
  accepted := fun s rest hs ho => by
    rw [h s hs]
    exact hy.accepted s rest hs ho
  refused := fun s j rest hs hj ho => by
    rw [h s hs]
    exact hy.refused s j rest hs hj ho

end

/-! ## One frame -/

theorem sendBurst_sends (v : WriteView) (bs : List Byte) : Sends (sendBurst bs) [.w bs true] () v v where
  accepted := fun s rest hs ho =>
    ⟨_, sendBurst_good ho bs, ⟨s.draws, s.ix, s.rem, s.nb, s.order, rfl⟩, hs⟩
  refused := fun s j rest hs hj ho => by
    obtain rfl : j = 0 := Nat.lt_one_iff.mp hj
    exact ⟨_, bs, sendBurst_err ho bs, rfl, ⟨s.draws, s.ix, s.rem, s.nb, s.order, rfl⟩⟩

theorem sendHeader_sends (v : WriteView) (order : BitVec 2) :
    Sends (sendHeader order) [.w [headerByte order] true] () v { v with order := order } := by
  refine sends_andThen (e1 := []) (sends_assign fun s hs => ?_) (sendBurst_sends _ _)
  subst hs
  exact ⟨⟨s.draws, s.ix, s.rem, s.nb, order, by rw [List.append_nil]⟩, rfl⟩

/-- What `BufRead` reads and draws depends on the buffer and the draw counter alone. -/
theorem bufRead_sends (v : WriteView) (buf : BufId) (off n : Nat) :
    Sends (bufRead buf off n) [] (v.mem.readRun buf n off v.draws).1 v { v with draws := (v.mem.readRun buf n off v.draws).2 } := by
  refine sends_nothing fun s hs => ?_
  subst hs
  exact ⟨_, rfl, ⟨_, s.ix, s.rem, s.nb, s.order, by rw [List.append_nil]⟩, rfl⟩

theorem sendTrailer_sends (v : WriteView) : Sends sendTrailer (if v.crcOff then [] else [.w [0x00, 0x00] true]) () v v := by
  have hmode : ∀ s : State, s.writeView = v → s.crcOff = v.crcOff := fun s hs => by rw [← hs]; rfl
  rcases hv : v.crcOff with _ | _ <;> simp only [hv] at hmode
  · exact sends_congr (fun s hs => by simp [sendTrailer, writeTrailer, hmode s hs]) (sendBurst_sends v [0x00, 0x00])
  · exact sends_congr (fun s hs => by simp [sendTrailer, writeTrailer, hmode s hs, give]) (sends_give () v)

/-- After a frame whose body is the `n` bytes of buffer `buf` from `a` on. -/
def WriteView.afterFrame (v : WriteView) (buf : BufId) (a n : Nat) (order : BitVec 2) : WriteView :=
  { v with draws := (v.mem.readRun buf n a v.draws).2, order := order }

theorem writeFrame_sends (v : WriteView) (buf : BufId) (off ix rem nb : Nat) :
    Sends (writeFrame buf off ix rem nb)
      (writeFrameEvents v.crcOff (headerByte (orderOf v.cfg.dataPktSz ix rem)) (v.mem.readRun buf nb (off + ix) v.draws).1) () v
      (v.afterFrame buf (off + ix) nb (orderOf v.cfg.dataPktSz ix rem)) := by
  have hbody := sends_andThen (f := fun _ => sendTrailer) (sendBurst_sends
    (v.afterFrame buf (off + ix) nb (orderOf v.cfg.dataPktSz ix rem)) (v.mem.readRun buf nb (off + ix) v.draws).1) (sendTrailer_sends _)
  have hread := sends_andThen (f := fun bs => andThen (sendBurst bs) fun _ => sendTrailer)
    (bufRead_sends { v with order := orderOf v.cfg.dataPktSz ix rem } buf (off + ix) nb) hbody
  have hframe := sends_andThen
    (f := fun _ => andThen (bufRead buf (off + ix) nb) fun bs => andThen (sendBurst bs) fun _ => sendTrailer)
    (sendHeader_sends v (orderOf v.cfg.dataPktSz ix rem)) hread
  refine sends_andThen (e1 := []) (v1 := v) (sends_assign fun s hs => ?_) (sends_congr (fun s hs => ?_) hframe)
  · exact ⟨⟨s.draws, s.ix, s.rem, _, s.order, by rw [List.append_nil]⟩, hs⟩
  · subst hs
    rfl

/-! ## The frames of a write data phase -/

theorem setPhase_sends (v : WriteView) (i n : Nat) :
    Sends (assign fun t => t.setPhase i n) [] () v (v.setPhase i n) := by
  refine sends_assign fun s hs => ?_
  subst hs
  exact ⟨⟨s.draws, _, _, s.nb, s.order, by rw [List.append_nil]; rfl⟩, rfl⟩

section
variable {v v1 v2 : WriteView} {x : Op Unit} {next : Nat → Nat → Op Unit} {evs e1 e2 : List Event} {ix rem : Nat}

/-- The turn of the last frame. -/
theorem frameThen_sends_last (hx : Sends x evs () v v1) (hrem : rem ≤ v1.cfg.dataPktSz) :
    Sends (frameThen x next ix rem) evs () v (v1.setPhase (ix + rem) 0) := by
  rw [← List.append_nil evs]
  refine sends_andThen hx (sends_andThen (e1 := []) (v1 := v1.setPhase (ix + rem) 0)
    (sends_congr (fun s hs => ?_) (setPhase_sends v1 (ix + rem) 0)) (sends_congr (fun s hs => ?_) (sends_give () _)))
  · have hcfg : s.cfg = v1.cfg := congrArg WriteView.cfg hs
    rw [assign, hcfg, Nat.min_eq_left hrem, Nat.sub_self]
    rfl
  · have hcfg : s.cfg = v1.cfg := congrArg WriteView.cfg hs
    rw [hcfg, if_pos (by omega)]
    rfl

/-- The turn of any other frame, and the later ones. -/
theorem frameThen_sends_more (hx : Sends x e1 () v v1) (hrem : v1.cfg.dataPktSz < rem)
    (hnext : Sends (next (ix + v1.cfg.dataPktSz) (rem - v1.cfg.dataPktSz)) e2 ()
      (v1.setPhase (ix + v1.cfg.dataPktSz) (rem - v1.cfg.dataPktSz)) v2) :
    Sends (frameThen x next ix rem) (e1 ++ e2) () v v2 := by
  refine sends_andThen hx (sends_andThen (e1 := []) (sends_congr (fun s hs => ?_) (setPhase_sends v1 _ _))
    (sends_congr (fun s hs => ?_) hnext))
  · have hcfg : s.cfg = v1.cfg := congrArg WriteView.cfg hs
    rw [assign, hcfg, Nat.min_eq_right hrem.le]
    rfl
  · have hcfg : s.cfg = v1.cfg := congrArg WriteView.cfg hs
    rw [hcfg, Nat.min_eq_right hrem.le, if_neg (by omega)]

end

/-- The frames of a write data phase with `ix` bytes sent before them: the first of all is headed as such. -/
def framesFrom (off : Bool) (ix : Nat) (ps : List (List Byte)) : List Event :=
  if ix = 0 then writePhase off ps else laterFrames off ps

theorem framesFrom_last (off : Bool) (ix : Nat) (p : List Byte) : framesFrom off ix [p] = writeFrameEvents off 0xF3 p := by
  unfold framesFrom
  split <;> rfl

theorem framesFrom_more (off : Bool) (ix : Nat) (p : List Byte) {ps : List (List Byte)} (hps : ps ≠ []) {later : Nat}
    (hl : later ≠ 0) :
    framesFrom off ix (p :: ps) = writeFrameEvents off (if ix = 0 then 0xF1 else 0xF2) p ++ framesFrom off later ps := by
  rw [framesFrom, framesFrom, if_neg hl]
  split
  · exact writePhase_cons off p hps
  · exact laterFrames_cons off p hps

/-- The header of a frame with more to come (30_encoding R84, R151). -/
theorem headerByte_of_more {pkt rem : Nat} (h : pkt < rem) (ix : Nat) :
    headerByte (orderOf pkt ix rem) = if ix = 0 then 0xF1 else 0xF2 := by
  rw [orderOf, if_neg (by omega)]
  split <;> rfl

/-- After a write data phase: the draws of its bytes are counted, the code is that of a last frame, and no byte is left. -/
def WriteView.phaseDone (v : WriteView) (draws moved : Nat) : WriteView :=
  { v.setPhase moved 0 with draws := draws, order := 3 }

/-- The frames send the bytes that one run reads from the buffer, cut into pieces (R151, R152). -/
theorem writeFrames_sends {v : WriteView} {buf : BufId} {off fuel ix rem : Nat} (hp : 1 ≤ v.cfg.dataPktSz) (hrem : 1 ≤ rem)
    (hfuel : rem ≤ fuel) :
    Sends (writeFrames buf off fuel ix rem)
      (framesFrom v.crcOff ix (piecesOf v.cfg.dataPktSz fuel (v.mem.readRun buf rem (off + ix) v.draws).1)) () v
      (v.phaseDone (v.mem.readRun buf rem (off + ix) v.draws).2 (ix + rem)) := by
  induction fuel generalizing v ix rem with
  | zero => omega
  | succ fuel ih =>
    have hframe := writeFrame_sends v buf off ix rem (min rem v.cfg.dataPktSz)
    have hturn : ∀ s : State, s.writeView = v → writeFrames buf off (fuel + 1) ix rem s =
        frameThen (writeFrame buf off ix rem (min rem v.cfg.dataPktSz)) (writeFrames buf off fuel) ix rem s := fun s hs => by
      rw [writeFrames_succ]
      subst hs
      rfl
    have hlen := readRun_length v.mem buf rem (off + ix) v.draws
    rcases Nat.lt_or_ge v.cfg.dataPktSz rem with hmore | hlast
    · rw [Nat.min_eq_right hmore.le] at hframe hturn
      have hdraws := congrArg Prod.snd (readRun_add v.mem buf v.cfg.dataPktSz (rem - v.cfg.dataPktSz) (off + ix) v.draws)
      rw [Nat.add_sub_of_le hmore.le] at hdraws
      have hlater := readRun_length v.mem buf (rem - v.cfg.dataPktSz) (off + ix + v.cfg.dataPktSz)
        (v.mem.readRun buf v.cfg.dataPktSz (off + ix) v.draws).2
      have hpieces := piecesOf_ne_nil (n := v.cfg.dataPktSz) (k := fuel) (List.ne_nil_of_length_pos (hlater ▸ Nat.sub_pos_of_lt hmore))
        (by omega)
      have hnext := ih (ix := ix + v.cfg.dataPktSz) (rem := rem - v.cfg.dataPktSz)
        (v := (v.afterFrame buf (off + ix) v.cfg.dataPktSz (orderOf v.cfg.dataPktSz ix rem)).setPhase (ix + v.cfg.dataPktSz)
          (rem - v.cfg.dataPktSz)) hp (by omega) (by omega)
      rw [← Nat.add_assoc, Nat.add_assoc ix, Nat.add_sub_of_le hmore.le] at hnext
      rw [piecesOf_readRun hmore, hdraws, framesFrom_more _ _ _ hpieces (by omega : ix + v.cfg.dataPktSz ≠ 0),
        ← headerByte_of_more hmore]
      exact sends_congr hturn (frameThen_sends_more hframe hmore hnext)
    · rw [Nat.min_eq_left hlast] at hframe hturn
      have horder : orderOf v.cfg.dataPktSz ix rem = 3 := if_pos hlast
      rw [horder] at hframe
      rw [piecesOf_last (List.ne_nil_of_length_pos (by omega)) (by omega), framesFrom_last]
      exact sends_congr hturn (frameThen_sends_last hframe hlast)

/-- `SPI_DATA_WRITE` (R151). -/
theorem spiDataWrite_sends {v : WriteView} {buf : BufId} {off size : Nat} (hp : 1 ≤ v.cfg.dataPktSz) (hsize : 1 ≤ size) :
    Sends (spiDataWrite buf off size)
      (writePhase v.crcOff (piecesOf v.cfg.dataPktSz size (v.mem.readRun buf size off v.draws).1)) () v
      (v.phaseDone (v.mem.readRun buf size off v.draws).2 size) := by
  have hframes := writeFrames_sends (v := v.setPhase 0 size) (buf := buf) (off := off) (ix := 0) hp hsize (le_refl size)
  rw [framesFrom, if_pos rfl, Nat.zero_add] at hframes
  exact sends_andThen (f := fun _ => writeFrames buf off size 0 size) (e1 := []) (setPhase_sends v 0 size) hframes

/-! ## The statements -/

theorem conclude_of_ok {α : Type} {x : Ret α × State} {a : α} {t : State} (h : x = (.ok a, t)) (r : Nat) (res : α → Result) :
    conclude r res x = t.report r (res a) := by
  subst h
  rfl

theorem conclude_of_fail {α : Type} {x : Ret α × State} {c : Cause} {t : State} (h : x = (.fail c, t)) (r : Nat)
    (res : α → Result) : conclude r res x = t.report r (.fail c) := by
  subst h
  rfl

theorem exec_spiDataWrite {s : State} {buf : BufId} {off : Nat} {size : BitVec 16} (hs : s.onBus)
    (hb : s.bufferReady s.issuer buf off size.toNat false) :
    exec (.spiDataWrite buf off size) s = .next (conclude s.issuer (fun _ => .ok) (spiDataWrite buf off size.toNat s)) :=
  (withBus_of_onBus hs _).trans (withBuffer_of_ready hb _)

/-- What a write data phase leaves alone, its result given, whether its bursts were accepted or not. -/
theorem sent_report {s t : State} {evs : List Event} {rest : List Answer} (h : Sent s t evs rest) (res : Result) :
    let u := t.report s.issuer res
    s.Did u s.issuer evs rest res ∧ s.SameCommand u ∧ s.SameResponse u ∧ u.att = s.att ∧ s.SameBlock u ∧ u.tmp = s.tmp ∧
      s.SameBytes u := by
  obtain ⟨_, _, _, _, _, rfl⟩ := h
  exact ⟨⟨rfl, rfl, rfl, ⟨rfl, rfl, rfl, rfl, rfl, rfl, rfl, rfl⟩⟩, ⟨rfl, rfl, rfl, rfl, rfl⟩, ⟨rfl, rfl⟩, rfl,
    ⟨rfl, rfl, rfl, rfl⟩, rfl, fun _ _ => rfl⟩

/-- Settles O23: every burst of `spiDataWrite_sends` is accepted. -/
theorem dataWriteSendsEveryFrame : Obligations.DataWriteSendsEveryFrame := by
  intro s buf off size rest hs hb ho
  have hp : 1 ≤ s.cfg.dataPktSz := dataPktSz_pos hs.1.1
  have hlen := readRun_length s.mem buf size.toNat off s.draws
  have hanswers := writeAnswers_eq hp s.crcOff hlen
  obtain ⟨t, ht, hsent, hview⟩ := (spiDataWrite_sends (v := s.writeView) (buf := buf) (off := off) hp hb.1).accepted s rest rfl
    (ho.trans (congrArg (· ++ rest) hanswers))
  obtain ⟨hdid, hcmd, hrsp, hatt, hblock, htmp, hbytes⟩ := sent_report hsent .ok
  refine ⟨_, (s.mem.readRun buf size.toNat off s.draws).1, by rw [exec_spiDataWrite hs hb, conclude_of_ok ht], hlen,
    readRun_agrees s buf off size.toNat s.draws, ?_, ?_, ?_, ?_, hcmd, hrsp, hatt, hblock, htmp, hbytes⟩
  · rw [hlen]
    exact hdid
  · exact (congrArg WriteView.ix hview).trans ((BitVec.ofNat_toNat 16 size).trans (BitVec.setWidth_eq size))
  · exact congrArg WriteView.rem hview
  · exact congrArg WriteView.order hview

/-- Settles O24: burst `j` of `spiDataWrite_sends` is the first refused. -/
theorem dataWriteStopsAtFirstError : Obligations.DataWriteStopsAtFirstError := by
  intro s buf off size j rest hs hb hj ho
  have hp : 1 ≤ s.cfg.dataPktSz := dataPktSz_pos hs.1.1
  have hlen := readRun_length s.mem buf size.toNat off s.draws
  have hanswers := writeAnswers_eq hp s.crcOff hlen
  rw [hanswers, List.length_replicate] at hj
  obtain ⟨t, burst, ht, hburst, hsent⟩ := (spiDataWrite_sends (v := s.writeView) (buf := buf) (off := off) hp hb.1).refused s j rest
    rfl hj ho
  refine ⟨_, (s.mem.readRun buf size.toNat off s.draws).1, burst, by rw [exec_spiDataWrite hs hb, conclude_of_fail ht], hlen,
    readRun_agrees s buf off size.toNat s.draws, ?_, ?_⟩ <;> rw [hlen]
  · exact hburst
  · exact sent_report hsent _

end Sys2Proof.Machine
end

section
/-! PROOFS. `SPI_DATA_READ` (42_spi_data R150, R152), whatever the transport answers: what it leaves alone, and, when it succeeds,
that every byte of the region has a value (60_exceptions R224). -/

namespace Sys2Proof.Machine

/-! ## What a read data phase leaves alone -/

/-- Reads have been made, and besides what the transport uses up only the registers of a read data phase and the buffers are written. -/
def OnlyDataReads (s t : State) : Prop :=
  ∃ evs o d b k i r n m, t = { s with
      h := s.h ++ evs, oracle := o, draws := d, rsp := b, rk := k, ix := i, rem := r, nb := n, mem := m } ∧
    ∀ e ∈ evs, ∃ n ans, e = .r n ans

/-- An update of those registers and the buffers. -/
theorem onlyDataReads_of_eq {s : State} (i r : BitVec 16) (n : BitVec 14) (m : Memory) :
    OnlyDataReads s { s with ix := i, rem := r, nb := n, mem := m } :=
  ⟨[], s.oracle, s.draws, s.rsp, s.rk, i, r, n, m, by rw [List.append_nil], by simp⟩

theorem onlyDataReads_refl (s : State) : OnlyDataReads s s := onlyDataReads_of_eq s.ix s.rem s.nb s.mem

theorem onlyDataReads_trans {s t u : State} (a : OnlyDataReads s t) (b : OnlyDataReads t u) : OnlyDataReads s u := by
  obtain ⟨e1, _, _, _, _, _, _, _, _, rfl, h1⟩ := a
  obtain ⟨e2, o, d, b, k, i, r, n, m, rfl, h2⟩ := b
  exact ⟨e1 ++ e2, o, d, b, k, i, r, n, m, by rw [← List.append_assoc], fun e he => (List.mem_append.mp he).elim (h1 e) (h2 e)⟩

theorem onlyDataReads_andThen {α β : Type} {x : Op α} {f : α → Op β} (hx : Keeps OnlyDataReads x)
    (hf : ∀ a, Keeps OnlyDataReads (f a)) : Keeps OnlyDataReads (andThen x f) :=
  keeps_andThen (R := OnlyDataReads) (fun _ _ _ => onlyDataReads_trans) hx hf

/-- One-byte reads are reads. -/
theorem onlyDataReads_of_onlyReads {n : Nat} {s t : State} (h : OnlyReads n s t) : OnlyDataReads s t := by
  obtain ⟨evs, o, d, b, k, rfl, hr, _⟩ := h
  exact ⟨evs, o, d, b, k, s.ix, s.rem, s.nb, s.mem, rfl, fun e he => ⟨1, hr e he⟩⟩

/-- A read, however it is answered: one event, and what the transport uses up. -/
theorem readBurst_state (n : Nat) (s : State) :
    ∃ ans o d, (readBurst n s).2 = { s with h := s.h ++ [.r n ans], oracle := o, draws := d } := by
  have ht := answer_state s
  unfold readBurst txRead
  rcases hs : s.answer with ⟨_ | bs, t⟩ <;> rw [hs] at ht
  · exact ⟨none, t.oracle, t.draws, by rw [show t = _ from ht]; rfl⟩
  · exact ⟨some (fitBytes n t.draws bs), t.oracle, t.draws + (n - bs.length), by rw [show t = _ from ht]; rfl⟩

theorem readBurst_onlyDataReads (n : Nat) : Keeps OnlyDataReads (readBurst n) := by
  intro s
  obtain ⟨ans, o, d, ht⟩ := readBurst_state n s
  exact ⟨[.r n ans], o, d, s.rsp, s.rk, s.ix, s.rem, s.nb, s.mem, ht, by simp⟩

theorem readBurst_mem (n : Nat) (s : State) : (readBurst n s).2.mem = s.mem := by
  obtain ⟨_, _, _, ht⟩ := readBurst_state n s
  rw [ht]

section
variable {buf : BufId} {off : Nat} (clk : Bool)

theorem discardTrailer_onlyDataReads : Keeps OnlyDataReads (discardTrailer clk) := by
  intro s
  unfold discardTrailer
  split
  · exact onlyDataReads_andThen (readBurst_onlyDataReads 2) (fun _ => keeps_give onlyDataReads_refl ()) s
  · exact onlyDataReads_refl s

theorem readFrame_onlyDataReads (ix nb : Nat) : Keeps OnlyDataReads (readFrame (.host buf off) clk ix nb) :=
  onlyDataReads_andThen (keeps_assign fun s => onlyDataReads_of_eq s.ix s.rem _ s.mem) fun _ =>
    onlyDataReads_andThen (fun s => onlyDataReads_of_onlyReads (awaitByte_onlyReads _ _ s)) fun _ =>
      onlyDataReads_andThen (readBurst_onlyDataReads nb) fun _ =>
        onlyDataReads_andThen (keeps_assign fun s => onlyDataReads_of_eq s.ix s.rem s.nb _) fun _ =>
          discardTrailer_onlyDataReads clk

theorem readFrames_onlyDataReads (fuel ix rem : Nat) : Keeps OnlyDataReads (readFrames (.host buf off) clk fuel ix rem) := by
  induction fuel generalizing ix rem with
  | zero => exact keeps_give onlyDataReads_refl ()
  | succ fuel ih =>
    intro s
    refine onlyDataReads_andThen (readFrame_onlyDataReads clk ix _) (fun _ => ?_) s
    refine onlyDataReads_andThen (keeps_assign fun t => onlyDataReads_of_eq _ _ t.nb t.mem) fun _ t => ?_
    split
    · exact onlyDataReads_refl t
    · exact ih _ _ t

theorem spiDataRead_of_ok {d : Dest} {size : Nat} {s t : State} (h : readFrames d clk size 0 size (s.setPhase 0 size) = (.ok (), t)) :
    spiDataRead d size clk s = (.ok (), t) := by
  rw [spiDataRead, h]

theorem spiDataRead_of_fail {d : Dest} {size : Nat} {s t : State} {c : Cause}
    (h : readFrames d clk size 0 size (s.setPhase 0 size) = (.fail c, t)) :
    spiDataRead d size clk s = (.fail c, d.lose size t) := by
  rw [spiDataRead, h]

theorem spiDataRead_onlyDataReads (size : Nat) : Keeps OnlyDataReads (spiDataRead (.host buf off) size clk) := by
  intro s
  have h := onlyDataReads_trans (onlyDataReads_of_eq (BitVec.ofNat 16 0) (BitVec.ofNat 16 size) s.nb s.mem)
    (readFrames_onlyDataReads (buf := buf) (off := off) clk size 0 size (s.setPhase 0 size))
  rcases hr : readFrames (.host buf off) clk size 0 size (s.setPhase 0 size) with ⟨_ | c, t⟩ <;> rw [hr] at h
  · rw [spiDataRead_of_ok clk hr]
    exact h
  · rw [spiDataRead_of_fail clk hr]
    exact onlyDataReads_trans h (onlyDataReads_of_eq t.ix t.rem t.nb _)

end

/-! ## What a read data phase that succeeds has done -/

/-- A turn of the data-frame loop that succeeds: its frame did, and it was the last one, or the later ones succeed. -/
theorem frameThen_ok {x : Op Unit} {next : Nat → Nat → Op Unit} {ix rem : Nat} {s u : State}
    (h : frameThen x next ix rem s = (.ok (), u)) :
    ∃ t, x s = (.ok (), t) ∧
      ((rem ≤ t.cfg.dataPktSz ∧ u = t.setPhase (ix + rem) 0) ∨
       (t.cfg.dataPktSz < rem ∧ next (ix + t.cfg.dataPktSz) (rem - t.cfg.dataPktSz)
          (t.setPhase (ix + t.cfg.dataPktSz) (rem - t.cfg.dataPktSz)) = (.ok (), u))) := by
  obtain ⟨_, t, hx, h⟩ := andThen_ok h
  refine ⟨t, hx, ?_⟩
  obtain ⟨_, t', ht, h⟩ := andThen_ok h
  cases ht
  rcases Nat.lt_or_ge t.cfg.dataPktSz rem with hmore | hlast
  · have hmin : min rem t.cfg.dataPktSz = t.cfg.dataPktSz := Nat.min_eq_right hmore.le
    simp only [setPhase_cfg, hmin] at h
    rw [if_neg (by omega)] at h
    exact .inr ⟨hmore, h⟩
  · have hmin : min rem t.cfg.dataPktSz = rem := Nat.min_eq_left hlast
    simp only [setPhase_cfg, hmin, Nat.sub_self, if_true] at h
    cases h
    exact .inl ⟨hlast, rfl⟩

theorem discardTrailer_mem (clk : Bool) : Keeps (fun s t => t.mem = s.mem) (discardTrailer clk) := by
  intro s
  unfold discardTrailer
  split
  · exact keeps_andThen (R := fun s t => t.mem = s.mem) (fun _ _ _ h k => k.trans h) (readBurst_mem 2)
      (fun _ _ => rfl) s
  · rfl

theorem awaitHeader_mem : Keeps (fun s t => t.mem = s.mem) awaitHeader := fun s => by
  obtain ⟨_, _, _, _, _, ht, _⟩ := awaitByte_onlyReads isDataHeader (fun b => .dataRspTimeout b) s
  rw [awaitHeader, ht]

/-- A frame that is read to its end puts a body of its length in its place. -/
theorem readFrame_ok {buf : BufId} {off : Nat} {clk : Bool} {ix nb : Nat} {s t : State}
    (h : readFrame (.host buf off) clk ix nb s = (.ok (), t)) :
    ∃ body, body.length = nb ∧ t.mem = s.mem.writeRun buf (off + ix) body := by
  obtain ⟨_, s1, h1, h⟩ := andThen_ok h
  obtain ⟨_, s2, h2, h⟩ := andThen_ok h
  obtain ⟨body, s3, h3, h⟩ := andThen_ok h
  obtain ⟨_, s4, h4, h⟩ := andThen_ok h
  have hheader := awaitHeader_mem s1
  have hread := readBurst_mem nb s2
  have htrailer := discardTrailer_mem clk s4
  rw [h2] at hheader
  rw [h3] at hread
  rw [h] at htrailer
  cases h1
  cases h4
  refine ⟨body, readBurst_length h3, htrailer.trans ?_⟩
  show s3.mem.writeRun buf (off + ix) body = _
  rw [hread, hheader]

/-- The frames of a read data phase that succeeds have filled the region, and no byte is left (R150). -/
theorem readFrames_ok {buf : BufId} {off : Nat} {clk : Bool} {fuel ix rem : Nat} {s t : State} (hp : 1 ≤ s.cfg.dataPktSz)
    (hrem : 1 ≤ rem) (hfuel : rem ≤ fuel) (h : readFrames (.host buf off) clk fuel ix rem s = (.ok (), t)) :
    (∃ bs, bs.length = rem ∧ t.mem = s.mem.writeRun buf (off + ix) bs) ∧ t.ix = BitVec.ofNat 16 (ix + rem) ∧ t.rem = 0 := by
  induction fuel generalizing ix rem s with
  | zero => omega
  | succ fuel ih =>
    rw [readFrames_succ] at h
    obtain ⟨u, hframe, hnext⟩ := frameThen_ok h
    have hwithin := readFrame_within (.host buf off) clk ix (min rem s.cfg.dataPktSz) s
    obtain ⟨body, hbody, hmem⟩ := readFrame_ok hframe
    rw [hframe] at hwithin
    have hcfg : u.cfg = s.cfg := hwithin.outside.cfg
    rw [hcfg] at hnext
    rcases hnext with ⟨hlast, rfl⟩ | ⟨hmore, hnext⟩
    · rw [Nat.min_eq_left hlast] at hbody
      exact ⟨⟨body, hbody, hmem⟩, rfl, rfl⟩
    · rw [Nat.min_eq_right hmore.le] at hbody
      obtain ⟨⟨bs, hbs, hmem'⟩, hix, hrem'⟩ := ih (s := u.setPhase _ _) (hcfg ▸ hp) (by omega) (by omega) hnext
      rw [Nat.add_assoc, Nat.add_sub_of_le hmore.le] at hix
      refine ⟨⟨body ++ bs, by rw [List.length_append, hbody, hbs, Nat.add_sub_of_le hmore.le], ?_⟩, hix, hrem'⟩
      rw [hmem', setPhase_mem, hmem, ← Nat.add_assoc, ← hbody, writeRun_append]

/-- Every way `SPI_DATA_READ` ends (R150, 60_exceptions R224): the region is filled, or no byte of it holds a value. -/
theorem spiDataRead_spec {buf : BufId} {off size : Nat} {clk : Bool} {s : State} (hp : 1 ≤ s.cfg.dataPktSz) (hsize : 1 ≤ size) :
    (∃ bs t, spiDataRead (.host buf off) size clk s = (.ok (), t) ∧ t.mem.known? buf size off = some bs ∧
      t.ix = BitVec.ofNat 16 size ∧ t.rem = 0) ∨
    (∃ c t, spiDataRead (.host buf off) size clk s = (.fail c, t) ∧ t.lostBytes buf off size) := by
  rcases hr : readFrames (.host buf off) clk size 0 size (s.setPhase 0 size) with ⟨_ | c, t⟩
  · obtain ⟨⟨bs, hbs, hmem⟩, hix, hrem⟩ := readFrames_ok (s := s.setPhase 0 size) hp hsize (le_refl size) hr
    rw [Nat.zero_add] at hix
    exact .inl ⟨bs, t, spiDataRead_of_ok clk hr, by rw [hmem, ← hbs]; exact known?_writeRun _ buf off bs, hix, hrem⟩
  · refine .inr ⟨c, _, spiDataRead_of_fail clk hr, fun k hk hlt => ?_⟩
    exact (get?_forget t.mem buf buf off size k).trans (if_pos ⟨rfl, hk, hlt⟩)

/-! ## The statements -/

theorem exec_spiDataRead {s : State} {buf : BufId} {off : Nat} {size : BitVec 16} (hs : s.onBus)
    (hb : s.bufferReady s.issuer buf off size.toNat true) (clk : Bool) :
    exec (.spiDataRead buf off size clk) s =
      .next (conclude s.issuer (fun _ => .ok) (spiDataRead (.host buf off) size.toNat clk s)) :=
  (withBus_of_onBus hs _).trans (withBuffer_of_ready hb _)

/-- What a read data phase leaves alone, its result given, whatever became of it. -/
theorem onlyDataReads_report {s t : State} (h : OnlyDataReads s t) (res : Result) :
    let u := t.report s.issuer res
    s.SameOutside u ∧ s.SameCommand u ∧ u.order = s.order ∧ u.att = s.att ∧ s.SameBlock u ∧ u.tmp = s.tmp ∧
      u.results = s.results ++ [(s.issuer, res)] ∧ ∃ evs, u.h = s.h ++ evs ∧ ∀ e ∈ evs, ∃ n ans, e = .r n ans := by
  obtain ⟨evs, _, _, _, _, _, _, _, _, rfl, hreads⟩ := h
  exact ⟨⟨rfl, rfl, rfl, rfl, rfl, rfl, rfl, rfl⟩, ⟨rfl, rfl, rfl, rfl, rfl⟩, rfl, rfl, ⟨rfl, rfl, rfl, rfl⟩, rfl, rfl, evs,
    rfl, hreads⟩

/-- No byte outside the region changes, whatever becomes of a read data phase. -/
theorem spiDataRead_sameBytesBut (buf : BufId) (off size : Nat) (clk : Bool) (s : State) :
    s.SameBytesBut (spiDataRead (.host buf off) size clk s).2 buf off size :=
  onlyIn_sameBytesBut (R := some (buf, off, size))
    (spiDataRead_onlyAt (d := .host buf off) ⟨rfl, le_refl _, le_refl _⟩ clk s) rfl

/-- Settles O25: the frames play (`spiDataRead_plays`), and what a read data phase leaves alone it leaves alone here. -/
theorem dataReadFillsTheBuffer : Obligations.DataReadFillsTheBuffer := by
  intro s buf off size clk bs fs rest hs hb hlen hfs hacc ho
  have hp : 1 ≤ s.cfg.dataPktSz := dataPktSz_pos hs.1.1
  have hne : bs ≠ [] := List.ne_nil_of_length_pos (hlen ▸ hb.1)
  obtain ⟨t, ht, hplayed⟩ := spiDataRead_plays (buf := buf) (o := off) hp clk hne hfs hacc s rest rfl rfl rfl ho
  rw [hlen] at ht
  have honly := spiDataRead_onlyDataReads (buf := buf) (off := off) clk size.toNat s
  have hbytes := spiDataRead_sameBytesBut buf off size.toNat clk s
  rw [ht] at honly hbytes
  obtain ⟨hix, hrem⟩ : t.ix = BitVec.ofNat 16 size.toNat ∧ t.rem = 0 := by
    rcases spiDataRead_spec (buf := buf) (off := off) (clk := clk) hp hb.1 with ⟨_, u, hu, _, hdone⟩ | ⟨_, u, hu, _⟩
    · cases ht.symm.trans hu
      exact hdone
    · cases ht.symm.trans hu
  obtain ⟨_, hcmd, horder, hatt, hblock, htmp, _⟩ := onlyDataReads_report honly .ok
  refine ⟨_, by rw [exec_spiDataRead hs hb, conclude_of_ok ht], did_of_played hplayed .ok, ?_, hbytes,
    hix.trans ((BitVec.ofNat_toNat 16 size).trans (BitVec.setWidth_eq size)), hrem, hcmd, horder, hatt, hblock, htmp⟩
  rw [report_mem, hplayed.mem, ← hlen]
  exact known?_writeRun s.mem buf off bs

/-- Settles O26: `spiDataRead_spec` says how it ends, R176's bound is `spiDataRead_bounded`'s. -/
theorem dataReadEndsOrLosesTheRegion : Obligations.DataReadEndsOrLosesTheRegion := by
  intro s buf off size clk hs hb
  have hp : 1 ≤ s.cfg.dataPktSz := dataPktSz_pos hs.1.1
  obtain ⟨_, hcount, _⟩ := spiDataRead_bounded hp (fits_host buf off size.toNat) clk s rfl
  have honly := spiDataRead_onlyDataReads (buf := buf) (off := off) clk size.toNat s
  have hbytes := spiDataRead_sameBytesBut buf off size.toNat clk s
  obtain ⟨res, t, hexec, ht, hend⟩ : ∃ res t, exec (.spiDataRead buf off size clk) s = .next (t.report s.issuer res) ∧
      (spiDataRead (.host buf off) size.toNat clk s).2 = t ∧
      ((res = .ok ∧ ∃ bs, t.mem.known? buf size.toNat off = some bs) ∨
        ((∃ c, res = .fail c) ∧ t.lostBytes buf off size.toNat)) := by
    rw [exec_spiDataRead hs hb]
    rcases spiDataRead_spec (buf := buf) (off := off) (clk := clk) hp hb.1 with ⟨bs, t, ht, hknown, _⟩ | ⟨c, t, ht, hlost⟩
    · exact ⟨.ok, t, by rw [conclude_of_ok ht], congrArg Prod.snd ht, .inl ⟨rfl, bs, hknown⟩⟩
    · exact ⟨.fail c, t, by rw [conclude_of_fail ht], congrArg Prod.snd ht, .inr ⟨⟨c, rfl⟩, hlost⟩⟩
  rw [ht] at hcount honly hbytes
  obtain ⟨houtside, hcmd, horder, hatt, hblock, htmp, hresults, evs, hevs, hreads⟩ := onlyDataReads_report honly res
  have hmost : evs.length ≤ (s.cfg.rspRetry + 3) * frameCount s.cfg size.toNat := by
    have hlen := congrArg List.length hevs
    rw [report_h, List.length_append] at hlen
    unfold readCalls at hcount
    omega
  exact ⟨_, evs, res, hexec, hevs, hreads, hmost, hresults, hend, hbytes, houtside, hcmd, horder, hatt, hblock, htmp⟩

end Sys2Proof.Machine
end

section
/-! PROOFS. Sizes (42_spi_data R153): an operation of size 0 is refused by the guard of a buffer, and a chunk has from 1 to
65535 bytes. -/

namespace Sys2Proof.Machine

theorem withBuffer_of_empty (s : State) (who : Nat) (buf : BufId) (off : Nat) (w : Bool) (k : Answered) :
    withBuffer s who buf off 0 w k = .refused .sizeZero := if_pos rfl

/-- The chunk size has 16 bits (44_bus R193). -/
theorem chunkSize_le (c : Cfg) : chunkSize c ≤ 65535 := by
  have := c.maxTrxSz.isLt
  unfold chunkSize
  omega

/-- Settles O28: the guard refuses whatever stands behind it; a chunk is the bytes left or the chunk size. -/
theorem sizeZeroIsRefused : Obligations.SizeZeroIsRefused := by
  refine ⟨fun s buf off adr clk hs => ?_, fun s r buf adr ha => ?_, fun size => by have := size.isLt; omega, fun c b hw hb => ?_⟩
  · have href : ∀ w k, withBus s (withBuffer s s.issuer buf off 0 w k) = .refused .sizeZero := fun w k =>
      (withBus_of_onBus hs _).trans (withBuffer_of_empty s _ buf off w k)
    exact ⟨href _ _, href _ _, href _ _, href _ _⟩
  · have href : ∀ w k, whenAdmitted r s (withBuffer s r buf 0 0 w k) = .refused .sizeZero := fun w k =>
      (admit_of_admits ha _).trans (withBuffer_of_empty s r buf 0 w k)
    exact ⟨href _ _, href _ _⟩
  · have hpos := chunkSize_pos hw
    have hle := chunkSize_le c
    have hleft : 0 < bytesLeft c b := Nat.sub_pos_of_lt hb
    rw [chunkBytes_eq (r := 0) hb]
    omega

end Sys2Proof.Machine
end

section
/-! PROOFS. The tiling of a region by data frames and by chunks (42_spi_data R152, 44_bus R196), on the events of the two data phases
and of the two block operations. -/

namespace Sys2Proof.Machine

/-! ## Data frames counted out -/

/-- Burst `i` of frame `k` of a write data phase. -/
theorem writePhase_getElem? {n : Nat} (hn : 1 ≤ n) (off : Bool) {bs : List Byte} {k i : Nat} (hk : k < pieceCount n bs.length)
    (hi : i < frameBursts (!off)) :
    (writePhase off (piecesOf n bs.length bs))[frameBursts (!off) * k + i]? =
      (writeFrameEvents off (frameHeader (pieceCount n bs.length) k) (sliceOf n bs k))[i]? := by
  rw [writePhase_eq_mapIdx, piecesOf_length hn (le_refl _)]
  refine getElem?_flatten_of_forall (writeFrames_mapIdx_length off _ _) ?_ hi
  rw [List.getElem?_mapIdx, piecesOf_getElem? hn hk]
  rfl

theorem framesWritten_writePhase {n : Nat} (hn : 1 ≤ n) (off : Bool) (bs : List Byte) :
    FramesWritten n (!off) bs (writePhase off (piecesOf n bs.length bs)) where
  bursts := by rw [writePhase_length, piecesOf_length hn (le_refl _)]
  header := fun k hk => writePhase_getElem? hn off hk (i := 0) (by cases off <;> decide)
  body := fun k hk => writePhase_getElem? hn off hk (i := 1) (by cases off <;> decide)
  trail := fun k hk htrailer => by
    obtain rfl : off = false := by simpa using htrailer
    exact writePhase_getElem? hn false hk (i := 2) (by decide)
  tiles := tiles_slices hn bs

/-- A data frame sent by the slave in order: the header accepted at once. -/
def plainFrame (body : List Byte) : SlaveFrame := ⟨[], 0xF0, body, [0x00, 0x00]⟩

theorem plainFrame_events_length (trailer : Bool) (body : List Byte) :
    ((plainFrame body).events trailer).length = frameBursts trailer := by cases trailer <;> rfl

/-- A read data phase of plain frames, slice by slice. -/
theorem readPhase_plainFrames {n : Nat} (hn : 1 ≤ n) (trailer : Bool) (bs : List Byte) :
    readPhase trailer (plainFrames n bs) =
      ((List.range (pieceCount n bs.length)).map fun k => (plainFrame (sliceOf n bs k)).events trailer).flatten := by
  rw [readPhase, plainFrames, List.map_map, piecesOf_map_eq_slices hn]
  rfl

theorem readFrames_map_length (trailer : Bool) (bodies : Nat → List Byte) (count : Nat) :
    ∀ evs ∈ (List.range count).map fun k => (plainFrame (bodies k)).events trailer, evs.length = frameBursts trailer := by
  intro evs hevs
  obtain ⟨k, _, rfl⟩ := List.mem_map.mp hevs
  exact plainFrame_events_length trailer _

/-- Burst `i` of frame `k` of a read data phase. -/
theorem readPhase_getElem? {n : Nat} (hn : 1 ≤ n) (trailer : Bool) {bs : List Byte} {k i : Nat} (hk : k < pieceCount n bs.length)
    (hi : i < frameBursts trailer) :
    (readPhase trailer (plainFrames n bs))[frameBursts trailer * k + i]? =
      ((plainFrame (sliceOf n bs k)).events trailer)[i]? := by
  rw [readPhase_plainFrames hn]
  refine getElem?_flatten_of_forall (readFrames_map_length trailer _ _) ?_ hi
  rw [List.getElem?_map, List.getElem?_range hk]
  rfl

theorem framesRead_readPhase {n : Nat} (hn : 1 ≤ n) (trailer : Bool) (bs : List Byte) :
    FramesRead n trailer bs (readPhase trailer (plainFrames n bs)) where
  bursts := by
    rw [readPhase_plainFrames hn, length_flatten_of_forall (readFrames_map_length trailer _ _), List.length_map, List.length_range]
  header := fun k hk => readPhase_getElem? hn trailer hk (i := 0) (by cases trailer <;> decide)
  body := fun k hk => readPhase_getElem? hn trailer hk (i := 1) (by cases trailer <;> decide)
  trail := fun k hk htrailer => by
    subst htrailer
    exact readPhase_getElem? hn true hk (i := 2) (by decide)
  tiles := tiles_slices hn bs

/-! ## The answers to data frames -/

theorem scriptOf_flatten (L : List (List Event)) : scriptOf L.flatten = (L.map scriptOf).flatten := List.filterMap_flatten

/-- Write bursts are all answered `ok`. -/
theorem scriptOf_writes {evs : List Event} (h : ∀ e ∈ evs, ∃ bs, e = .w bs true) :
    scriptOf evs = List.replicate evs.length (.good []) := by
  induction evs with
  | nil => rfl
  | cons e evs ih =>
    obtain ⟨⟨bs, rfl⟩, hevs⟩ := List.forall_mem_cons.mp h
    exact congrArg (Answer.good [] :: ·) (ih hevs)

theorem writeFrameEvents_writes (off : Bool) (header : Byte) (body : List Byte) :
    ∀ e ∈ writeFrameEvents off header body, ∃ bs, e = .w bs true := by
  cases off <;> simp [writeFrameEvents]

theorem writePhase_writes (off : Bool) (ps : List (List Byte)) : ∀ e ∈ writePhase off ps, ∃ bs, e = .w bs true := by
  intro e he
  rw [writePhase_eq_mapIdx] at he
  obtain ⟨evs, hevs, he⟩ := List.mem_flatten.mp he
  obtain ⟨k, hk, rfl⟩ := List.mem_mapIdx.mp hevs
  exact writeFrameEvents_writes off _ _ e he

theorem scriptOf_writePhase {c : Cfg} (hp : 1 ≤ c.dataPktSz) (off : Bool) (bs : List Byte) :
    scriptOf (writePhase off (piecesOf c.dataPktSz bs.length bs)) = writeAnswers c off bs.length := by
  rw [scriptOf_writes (writePhase_writes off _), writeAnswers_eq hp off rfl]

theorem scriptOf_readPhase {n : Nat} (hn : 1 ≤ n) (trailer : Bool) (bs : List Byte) :
    scriptOf (readPhase trailer (plainFrames n bs)) = readAnswers n trailer bs := by
  rw [readPhase_plainFrames hn, scriptOf_flatten, List.map_map, readAnswers]
  congr 2
  funext k
  cases trailer <;> rfl

/-! ## The two data phases -/

/-- Bytes that agree with known ones are those. -/
theorem eq_of_agrees {s : State} {buf : BufId} {off : Nat} {bs ks : List Byte} (h : s.agrees buf off bs)
    (hknown : s.mem.known? buf bs.length off = some ks) : bs = ks := by
  obtain ⟨hlen, hks⟩ := known?_eq_some_iff.mp hknown
  refine List.ext_getElem hlen.symm fun k hk hk' => ?_
  have hbyte := h k hk ks[k] ((hks k hk).trans (List.getElem?_eq_getElem hk'))
  rwa [List.getElem?_eq_getElem hk, Option.some.injEq] at hbyte

theorem dataWrite_tiles {s : State} {buf : BufId} {off : Nat} {size : BitVec 16} {bs : List Byte} {rest : List Answer} (hs : s.onBus)
    (hb : s.bufferReady s.issuer buf off size.toNat false) (hknown : s.mem.known? buf size.toNat off = some bs)
    (ho : s.oracle = writeAnswers s.cfg s.crcOff size.toNat ++ rest) :
    ∃ t evs, exec (.spiDataWrite buf off size) s = .next t ∧ t.h = s.h ++ evs ∧ t.oracle = rest ∧
      FramesWritten s.cfg.dataPktSz (!s.crcOff) bs evs := by
  obtain ⟨t, sent, ht, hlen, hagrees, hdid, _⟩ := dataWriteSendsEveryFrame s buf off size rest hs hb ho
  obtain rfl := eq_of_agrees hagrees (hlen.symm ▸ hknown)
  exact ⟨t, _, ht, hdid.history, hdid.oracle, framesWritten_writePhase (dataPktSz_pos hs.1.1) s.crcOff sent⟩

theorem dataRead_tiles {s : State} {buf : BufId} {off : Nat} {size : BitVec 16} {clk : Bool} {bs : List Byte} {rest : List Answer}
    (hs : s.onBus) (hb : s.bufferReady s.issuer buf off size.toNat true) (hlen : bs.length = size.toNat)
    (ho : s.oracle = readAnswers s.cfg.dataPktSz (!s.crcOff && !clk) bs ++ rest) :
    ∃ t evs, exec (.spiDataRead buf off size clk) s = .next t ∧ t.h = s.h ++ evs ∧ t.oracle = rest ∧
      FramesRead s.cfg.dataPktSz (!s.crcOff && !clk) bs evs ∧ t.mem.known? buf size.toNat off = some bs := by
  have hp := dataPktSz_pos hs.1.1
  rw [← scriptOf_readPhase hp] at ho
  obtain ⟨t, ht, hdid, hknown, _⟩ := dataReadFillsTheBuffer s buf off size clk bs (plainFrames s.cfg.dataPktSz bs) rest hs hb hlen
    (plainFrames_bodies _ bs) (plainFrames_accepted _ _ bs) ho
  exact ⟨t, _, ht, hdid.history, hdid.oracle, framesRead_readPhase hp _ bs, hknown⟩

theorem plainFrames_map_bodies (pkt : Nat) (ps : List (List Byte)) :
    (ps.map (plainFrames pkt)).map (fun fs => fs.map (fun f => f.body)) = ps.map (fun p => piecesOf pkt p.length p) := by
  rw [List.map_map]
  exact List.map_congr_left fun p _ => plainFrames_bodies pkt p

theorem plainFrames_map_accepted (k pkt : Nat) (ps : List (List Byte)) :
    ∀ fs ∈ ps.map (plainFrames pkt), ∀ f ∈ fs, f.accepted k := by
  intro fs hfs
  obtain ⟨p, _, rfl⟩ := List.mem_map.mp hfs
  exact plainFrames_accepted k pkt p

/-! ## Chunks counted out -/

/-- Chunks as locked units, each with its events, addresses rising by their lengths: `writeChunks` and `readChunks` are both so. -/
def chunkUnits (r : Nat) (inner : Word → List Byte → List Event) : Word → List (List Byte) → List Event
  | _, [] => []
  | adr, p :: ps => unitOf r (inner adr p) ++ chunkUnits r inner (adr + BitVec.ofNat 32 p.length) ps

theorem writeChunks_eq_chunkUnits (c : Cfg) (off : Bool) (r : Nat) (adr : Word) (ps : List (List Byte)) :
    writeChunks c off r adr ps = chunkUnits r (blockWriteEvents c off) adr ps := by
  induction ps generalizing adr with
  | nil => rfl
  | cons p ps ih => rw [writeChunks, chunkUnits, ih]

/-- The events of a block read of these bytes, every frame accepted at once. -/
def plainReadEvents (c : Cfg) (off : Bool) (adr : Word) (bs : List Byte) : List Event :=
  blockReadEvents c off adr bs.length (plainFrames c.dataPktSz bs)

theorem plainFrames_flatten {n : Nat} (hn : 1 ≤ n) (bs : List Byte) : ((plainFrames n bs).map (fun f => f.body)).flatten = bs := by
  rw [plainFrames_bodies, piecesOf_flatten hn (le_refl _)]

theorem readChunks_eq_chunkUnits {c : Cfg} (hp : 1 ≤ c.dataPktSz) (off : Bool) (r : Nat) (adr : Word) (ps : List (List Byte)) :
    readChunks c off r adr (ps.map (plainFrames c.dataPktSz)) = chunkUnits r (plainReadEvents c off) adr ps := by
  induction ps generalizing adr with
  | nil => rfl
  | cons p ps ih => rw [List.map_cons, readChunks, chunkUnits, ih, plainFrames_flatten hp, plainReadEvents]

/-- Where all chunks but the last are full, chunk `k` is at the address `n * k` further on (R196). -/
theorem chunkUnits_eq_mapIdx {n : Nat} (r : Nat) (inner : Word → List Byte → List Event) (adr : Word) {ps : List (List Byte)}
    (hfull : ∀ k, k + 1 < ps.length → ∀ p, ps[k]? = some p → p.length = n) :
    chunkUnits r inner adr ps = ((ps.mapIdx fun k p => inner (adr + BitVec.ofNat 32 (n * k)) p).map (unitOf r)).flatten := by
  induction ps generalizing adr with
  | nil => rfl
  | cons p ps ih =>
    have hnext := ih (adr + BitVec.ofNat 32 p.length) fun k hk q hq => hfull (k + 1) (Nat.succ_lt_succ hk) q hq
    have hadr : ∀ k, k < ps.length →
        adr + BitVec.ofNat 32 p.length + BitVec.ofNat 32 (n * k) = adr + BitVec.ofNat 32 (n * (k + 1)) := fun k hk => by
      rw [hfull 0 (by rw [List.length_cons]; omega) p rfl, BitVec.add_assoc, ← BitVec.ofNat_add, Nat.mul_succ, Nat.add_comm n]
    have htail : (ps.mapIdx fun k q => inner (adr + BitVec.ofNat 32 p.length + BitVec.ofNat 32 (n * k)) q) =
        ps.mapIdx fun k q => inner (adr + BitVec.ofNat 32 (n * (k + 1))) q := by
      refine List.ext_getElem (by simp) fun k hk _ => ?_
      rw [List.length_mapIdx] at hk
      rw [List.getElem_mapIdx, List.getElem_mapIdx, hadr k hk]
    rw [chunkUnits, hnext, htail, List.mapIdx_cons, List.map_cons, List.flatten_cons, Nat.mul_zero, BitVec.add_zero]

/-- Units of the slices, each a command frame accepted at once and a data phase, move the bytes (R196). -/
theorem chunksMoved_chunkUnits {n : Nat} (hn : 1 ≤ n) (c : Cfg) (off : Bool) (r : Nat) (opcode : Byte) (adr : Word) (bs : List Byte)
    {data : List Byte → List Event} {phase : List Byte → List Event → Prop} (hdata : ∀ p, phase p (data p)) :
    ChunksMoved c off r n opcode adr bs phase
      (chunkUnits r (fun a p => commandPhase c off (blockBody opcode a p.length) ++ data p) adr (piecesOf n bs.length bs)) := by
  have hcount := piecesOf_length hn (le_refl bs.length)
  refine ⟨_, chunkUnits_eq_mapIdx (n := n) r _ adr fun k hk p hp => ?_, by rw [List.length_mapIdx, hcount], fun k hk => ?_⟩
  · rw [hcount] at hk
    rw [piecesOf_getElem? hn (by omega), Option.some.injEq] at hp
    rw [← hp, sliceOf_full hn hk]
  · rw [List.getElem?_mapIdx, piecesOf_getElem? hn hk]
    exact ⟨data (sliceOf n bs k), rfl, hdata _⟩

theorem scriptOf_commandPhase (c : Cfg) (off : Bool) (body : List Byte) :
    scriptOf (commandPhase c off body) = commandAnswers (body.headD 0) := rfl

/-- The answers to the chunks of a block operation do not depend on the address. -/
theorem scriptOf_chunkUnits (c : Cfg) (off : Bool) (r : Nat) (opcode : Byte) (adr : Word) {data : List Byte → List Event}
    {answers : List Byte → List Answer} (hdata : ∀ p, scriptOf (data p) = answers p) (ps : List (List Byte)) :
    scriptOf (chunkUnits r (fun a p => commandPhase c off (blockBody opcode a p.length) ++ data p) adr ps) =
      (ps.map fun p => commandAnswers opcode ++ answers p).flatten := by
  induction ps generalizing adr with
  | nil => rfl
  | cons p ps ih =>
    rw [chunkUnits, scriptOf_append, scriptOf_unitOf, scriptOf_append, ih, scriptOf_commandPhase, hdata, List.map_cons,
      List.flatten_cons]
    rfl

theorem scriptOf_sliceUnits {n : Nat} (hn : 1 ≤ n) (c : Cfg) (off : Bool) (r : Nat) (opcode : Byte) (adr : Word) (bs : List Byte)
    {data : List Byte → List Event} {answers : List Byte → List Answer} (hdata : ∀ p, scriptOf (data p) = answers p) :
    scriptOf (chunkUnits r (fun a p => commandPhase c off (blockBody opcode a p.length) ++ data p) adr (piecesOf n bs.length bs)) =
      ((List.range (pieceCount n bs.length)).map fun k => commandAnswers opcode ++ answers (sliceOf n bs k)).flatten := by
  rw [scriptOf_chunkUnits c off r opcode adr hdata, piecesOf_map_eq_slices hn]

/-! ## The two block operations -/

section
variable {s : State} {r : Nat} {adr : Word} {buf : BufId} {size : Word} {bs : List Byte} {sched : List Nat} {rest : List Answer}

theorem writeBlock_tiles (ha : s.admits r) (hfree : s.lock = .free) (hz : s.cfg.success = 0)
    (hs : s.sched = List.replicate (pieceCount (chunkSize s.cfg) bs.length - 1) r ++ sched)
    (hb : s.bufferReady r buf 0 size.toNat false) (hknown : s.mem.known? buf size.toNat 0 = some bs)
    (ho : s.oracle = ((List.range (pieceCount (chunkSize s.cfg) bs.length)).map fun k => commandAnswers s.cfg.opc.dmaExtWrite ++
      writeAnswers s.cfg s.crcOff (sliceOf (chunkSize s.cfg) bs k).length).flatten ++ rest) :
    ∃ t u evs, exec (.writeBlock r adr buf size) s = .next t ∧
      Host.Core.run Sys2Proof.core (pieceCount (chunkSize s.cfg) bs.length - 1) t = .next u ∧
      u.h = s.h ++ evs ∧ u.oracle = rest ∧ u.sched = sched ∧ u.results = s.results ++ [(r, .code 0)] ∧
      Tiles (chunkSize s.cfg) bs ∧ ChunksMoved s.cfg s.crcOff r (chunkSize s.cfg) s.cfg.opc.dmaExtWrite adr bs
        (FramesWritten s.cfg.dataPktSz (!s.crcOff)) evs := by
  have hC := chunkSize_pos ha.1
  have hp := dataPktSz_pos ha.1
  have hunits := writeChunks_eq_chunkUnits s.cfg s.crcOff r adr (piecesOf (chunkSize s.cfg) bs.length bs)
  have hscript : scriptOf (writeChunks s.cfg s.crcOff r adr (piecesOf (chunkSize s.cfg) bs.length bs)) = _ :=
    (congrArg scriptOf hunits).trans (scriptOf_sliceUnits hC s.cfg s.crcOff r _ adr bs (scriptOf_writePhase hp s.crcOff))
  rw [← piecesOf_length hC (le_refl bs.length)] at hs
  obtain ⟨t, u, ht, hu, hplayed⟩ := exec_writeBlock_played (adr := adr) ha hfree hz hb hknown hs
    (ho.trans (congrArg (· ++ rest) hscript.symm))
  rw [piecesOf_length hC (le_refl _)] at hu
  refine ⟨t, u, _, ht, hu, hplayed.history, hplayed.oracle, hplayed.sched, hplayed.results, tiles_slices hC bs, ?_⟩
  rw [hunits]
  exact chunksMoved_chunkUnits hC s.cfg s.crcOff r _ adr bs fun p => framesWritten_writePhase hp s.crcOff p

theorem readBlock_tiles (ha : s.admits r) (hfree : s.lock = .free) (hz : s.cfg.success = 0) (hlen : bs.length = size.toNat)
    (hs : s.sched = List.replicate (pieceCount (chunkSize s.cfg) bs.length - 1) r ++ sched)
    (hb : s.bufferReady r buf 0 size.toNat true)
    (ho : s.oracle = ((List.range (pieceCount (chunkSize s.cfg) bs.length)).map fun k => commandAnswers s.cfg.opc.dmaExtRead ++
      readAnswers s.cfg.dataPktSz (!s.crcOff) (sliceOf (chunkSize s.cfg) bs k)).flatten ++ rest) :
    ∃ t u evs, exec (.readBlock r adr buf size) s = .next t ∧
      Host.Core.run Sys2Proof.core (pieceCount (chunkSize s.cfg) bs.length - 1) t = .next u ∧
      u.h = s.h ++ evs ∧ u.oracle = rest ∧ u.sched = sched ∧ u.results = s.results ++ [(r, .code 0)] ∧
      Tiles (chunkSize s.cfg) bs ∧ ChunksMoved s.cfg s.crcOff r (chunkSize s.cfg) s.cfg.opc.dmaExtRead adr bs
        (FramesRead s.cfg.dataPktSz (!s.crcOff)) evs ∧
      u.mem.known? buf size.toNat 0 = some bs := by
  have hC := chunkSize_pos ha.1
  have hp := dataPktSz_pos ha.1
  have hunits := readChunks_eq_chunkUnits hp s.crcOff r adr (piecesOf (chunkSize s.cfg) bs.length bs)
  have hscript : scriptOf (readChunks s.cfg s.crcOff r adr
      ((piecesOf (chunkSize s.cfg) bs.length bs).map (plainFrames s.cfg.dataPktSz))) = _ :=
    (congrArg scriptOf hunits).trans (scriptOf_sliceUnits hC s.cfg s.crcOff r _ adr bs (scriptOf_readPhase hp (!s.crcOff)))
  have hframes : ((piecesOf (chunkSize s.cfg) bs.length bs).map (plainFrames s.cfg.dataPktSz)).length =
      pieceCount (chunkSize s.cfg) bs.length := by rw [List.length_map, piecesOf_length hC (le_refl _)]
  rw [← hframes] at hs
  obtain ⟨t, u, ht, hu, hplayed⟩ := exec_readBlock_played (adr := adr) ha hfree hz hb hlen
    (plainFrames_map_bodies _ _) (plainFrames_map_accepted _ _ _) hs (ho.trans (congrArg (· ++ rest) hscript.symm))
  rw [hframes] at hu
  refine ⟨t, u, _, ht, hu, hplayed.history, hplayed.oracle, hplayed.sched, hplayed.results, tiles_slices hC bs, ?_, ?_⟩
  · rw [hunits]
    exact chunksMoved_chunkUnits hC s.cfg s.crcOff r _ adr bs fun p => framesRead_readPhase hp (!s.crcOff) p
  · rw [hplayed.mem, ← hlen, known?_writeRun]

end

/-- Settles O27: the data phases play the frames of `piecesOf`, the block operations those units, and the pieces are the slices. -/
theorem piecesTileTheRegion : Obligations.PiecesTileTheRegion := by
  refine ⟨fun s buf off size clk bs rest hs hlen => ?_, fun s r adr buf size bs sched rest ha hfree hz hlen => ?_⟩
  · exact ⟨dataWrite_tiles hs, fun hb => dataRead_tiles hs hb hlen⟩
  · intro C K hsched
    exact ⟨writeBlock_tiles ha hfree hz hsched, readBlock_tiles ha hfree hz hlen hsched⟩

end Sys2Proof.Machine
end

section
/-! PROOFS. A command and its response (43_transactions R170 to R174), which bus reset and the four single-attempt transactions begin
with: what it leaves alone, the frame sent whatever the transport answers, and the response answered at once. -/

namespace Sys2Proof.Machine

/-- Besides the events, the oracle and the draw counter only the registers of a command and of a response have been written, `CMD` and
`CLK` with these values. -/
def Commanded (cmd : Byte) (clk : Bool) (s t : State) (evs : List Event) (rest : List Answer) : Prop :=
  ∃ v b len r k d, t = { s with
    cmd := cmd, clk := clk, h := s.h ++ evs, oracle := rest, crc := v, cb := b, cbLen := len, rsp := r, rk := k, draws := d }

theorem commanded_played {cmd : Byte} {clk : Bool} {s t : State} {evs : List Event} {rest : List Answer}
    (h : Commanded cmd clk s t evs rest) : Played s t evs rest s.mem := by
  obtain ⟨_, _, _, _, _, _, rfl⟩ := h
  exact ⟨rfl, rfl, rfl, rfl, ⟨rfl, rfl, rfl, rfl, rfl, rfl, rfl, rfl⟩⟩

theorem commanded_onBus {cmd : Byte} {clk : Bool} {s t : State} {evs : List Event} {rest : List Answer}
    (h : Commanded cmd clk s t evs rest) (hs : s.onBus) : t.onBus := by
  obtain ⟨_, _, _, _, _, _, rfl⟩ := h
  exact hs

/-- A response loop after the command. -/
theorem commanded_afterResponse {cmd : Byte} {clk : Bool} {s t : State} {e1 e2 : List Event} {r1 rest : List Answer}
    (h : Commanded cmd clk s t e1 r1) (b : Byte) (n : Nat) :
    Commanded cmd clk s (t.afterResponse e2 b n rest) (e1 ++ e2) rest := by
  obtain ⟨v, cb, len, _, _, d, rfl⟩ := h
  exact ⟨v, cb, len, b, BitVec.ofNat 4 n, d, by rw [← List.append_assoc]; rfl⟩

/-! ## The frame -/

/-- A burst, however it is answered: the next scripted answer, or a free one. -/
theorem sendBurst_result (bs : List Byte) (s : State) :
    ∃ a o d, sendBurst bs s = (if a = Answer.err then .fail (.transportError s.h.length) else .ok (),
        { s with h := s.h ++ [.w bs (decide (a ≠ Answer.err))], oracle := o, draws := d }) ∧
      ∀ a' rest, s.oracle = a' :: rest → a = a' ∧ o = rest := by
  refine ⟨s.answer.1, s.answer.2.oracle, s.answer.2.draws, ?_, fun a' rest ho => by rw [answer_script ho]; exact ⟨rfl, rfl⟩⟩
  have ht := answer_state s
  unfold sendBurst txWrite
  rcases hs : s.answer with ⟨_ | b, t⟩ <;> rw [hs] at ht <;> rw [show t = _ from ht] <;> rfl

/-- Making `CB` ready writes `CRC`, `CB`, `CBLEN` and draws (41_spi_command R120). -/
theorem buildFrame_registers (s : State) (body : List Byte) :
    ∃ v b len d, s.buildFrame body = { s with crc := v, cb := b, cbLen := len, draws := d } := by
  rw [buildFrame_eq]
  exact ⟨_, _, _, _, rfl⟩

/-- A command named by the opcode map, whatever the transport answers (41_spi_command R120): its frame in one burst. -/
theorem command_result {s : State} (hw : s.cfg.wf = true) (c : CmdName) (adr dat sz : Word) (clk : Bool) :
    ∃ a o t, command c adr dat sz clk s = (if a = Answer.err then .fail (.transportError s.h.length) else .ok (), t) ∧
      Commanded (s.cfg.opc.code c) clk s t
        [.w (frameBytes s.cfg s.crcOff (s.cfg.opc.code c :: payload c adr dat sz clk)) (decide (a ≠ Answer.err))] o ∧
      ∀ a' rest, s.oracle = a' :: rest → a = a' ∧ o = rest := by
  have hlen := commandBody_length_le (s.cfg.opc.code c) c adr dat sz clk
  obtain ⟨v, b, len, d, hbuilt⟩ := buildFrame_registers { s with cmd := s.cfg.opc.code c, clk := clk }
    (s.cfg.opc.code c :: payload c adr dat sz clk)
  have hcommand : command c adr dat sz clk s = sendBurst (frameBytes s.cfg s.crcOff (s.cfg.opc.code c :: payload c adr dat sz clk))
      ({ s with cmd := s.cfg.opc.code c, clk := clk }.buildFrame (s.cfg.opc.code c :: payload c adr dat sz clk)) := by
    rw [command, spiCmd_of_some (name?_code (opc_wf hw) c), sendCommandBuffer, buildFrame_take _ hlen]
  rw [hbuilt] at hcommand
  obtain ⟨a, o, d', hsent, hscript⟩ := sendBurst_result _ _
  exact ⟨a, o, _, hcommand.trans hsent, ⟨v, b, len, s.rsp, s.rk, d', rfl⟩, hscript⟩

/-! ## The frame and its response -/

/-- A command and its response: what a transaction does before its data phase, if it has one. -/
def exchange (c : CmdName) (adr dat sz : Word) (clk : Bool) : Op Unit := fun s =>
  andThen (command c adr dat sz clk) (fun _ => spiCmdRsp (s.cfg.opc.code c)) s

/-- A command, its response, and what follows. -/
theorem commandThen_eq_exchangeThen {β : Type} (c : CmdName) (adr dat sz : Word) (clk : Bool) (f : Unit → Op β) (s : State) :
    andThen (command c adr dat sz clk) (fun _ => andThen (spiCmdRsp (s.cfg.opc.code c)) f) s =
      andThen (exchange c adr dat sz clk) f s := by
  rcases hcmd : command c adr dat sz clk s with ⟨a | e, t⟩
  · have hx : exchange c adr dat sz clk s = spiCmdRsp (s.cfg.opc.code c) t := andThen_of_ok hcmd
    rw [andThen_of_ok hcmd]
    simp only [andThen, hx]
  · have hx : exchange c adr dat sz clk s = (.fail e, t) := andThen_of_fail hcmd
    rw [andThen_of_fail hcmd, andThen_of_fail hx]

/-- With its frame accepted, an exchange is its response. -/
theorem exchange_of_sent {s : State} (hw : s.cfg.wf = true) (c : CmdName) (adr dat sz : Word) (clk : Bool) {bs : List Byte}
    {rest : List Answer} (ho : s.oracle = .good bs :: rest) :
    ∃ t, exchange c adr dat sz clk s = spiCmdRsp (s.cfg.opc.code c) t ∧
      Commanded (s.cfg.opc.code c) clk s t
        [.w (frameBytes s.cfg s.crcOff (s.cfg.opc.code c :: payload c adr dat sz clk)) true] rest := by
  obtain ⟨a, o, t, ht, hsent, hscript⟩ := command_result hw c adr dat sz clk
  obtain ⟨rfl, rfl⟩ := hscript _ _ ho
  exact ⟨t, andThen_of_ok ht, hsent⟩

/-- The echo and a zero status at once (41_spi_command R134). -/
theorem spiCmdRsp_at_once {s : State} {cmd : Byte} {rest : List Answer} (ho : s.oracle = scriptOf (readsOf [cmd, 0]) ++ rest) :
    spiCmdRsp cmd s = (.ok (), s.afterResponse (readsOf [cmd, 0]) 0 0 rest) := by
  have hstatus := awaitByte_found (w := 0) (misses := []) (.statusTimeout cmd) (by simp)
    (s := s.afterResponse (readsOf [cmd]) cmd 0 (scriptOf (readsOf [0]) ++ rest)) (Nat.zero_le _) rfl
  rw [spiCmdRsp_echoed (es := []) (ss := [0]) (by simp) (Nat.zero_le _) ho]
  rw [afterResponse_afterResponse] at hstatus
  exact hstatus

/-- An exchange answered at once (43_transactions R171 to R174). -/
theorem exchange_answered {s : State} (hw : s.cfg.wf = true) (c : CmdName) (adr dat sz : Word) (clk : Bool) {rest : List Answer}
    (ho : s.oracle = commandAnswers (s.cfg.opc.code c) ++ rest) :
    ∃ t, exchange c adr dat sz clk s = (.ok (), t) ∧ Commanded (s.cfg.opc.code c) clk s t
      (commandPhase s.cfg s.crcOff (s.cfg.opc.code c :: payload c adr dat sz clk)) rest := by
  obtain ⟨t, ht, hsent⟩ := exchange_of_sent hw c adr dat sz clk ho
  rw [spiCmdRsp_at_once (commanded_played hsent).oracle] at ht
  exact ⟨_, ht, commanded_afterResponse hsent 0 0⟩

/-! ## Bus reset -/

/-- Settles O30: the frame is `command_result`'s, and the response is one-byte reads, at least one, after either answer to it. -/
theorem busResetAlwaysReturns : Obligations.BusResetAlwaysReturns := by
  intro s hs
  obtain ⟨a, o, t, ht, hsent, hscript⟩ := command_result hs.1.1 .reset 0 0 0 false
  have hreset : spiReset s = (spiCmdRsp s.cfg.opc.reset t).2 := by rw [spiReset, ht]
  have hreads := spiCmdRsp_onlyReads s.cfg.opc.reset t
  obtain ⟨_, hbound, _⟩ := spiCmdRsp_bounded s.cfg s.cfg.opc.reset t (commanded_played hsent).outside.cfg
  have hexec : exec .spiReset s = .next ((spiReset s).report s.issuer .done) := withBus_of_onBus hs _
  rw [← hreset] at hreads hbound
  obtain ⟨evs, _, _, _, _, hstate, hread, hone⟩ := hreads
  obtain ⟨_, _, _, _, _, _, rfl⟩ := hsent
  have hmost : evs.length ≤ 2 * (s.cfg.rspRetry + 1) := by
    rw [hstate] at hbound
    simp only [List.length_append] at hbound
    omega
  rw [hexec, hstate]
  exact ⟨_, decide (a ≠ .err), evs, rfl, List.append_assoc _ _ _, fun a' rest ho => by rw [(hscript a' rest ho).1], hread, hone,
    hmost, rfl, rfl, rfl, ⟨rfl, rfl, rfl, rfl, rfl, rfl, rfl, rfl⟩, ⟨rfl, rfl, rfl⟩, rfl, rfl, ⟨rfl, rfl, rfl, rfl⟩, rfl,
    fun _ _ => rfl⟩

end Sys2Proof.Machine
end

section
/-! PROOFS. The single-attempt transactions answered (43_transactions R171 to R174): each is an exchange and, but for `XREG_WR`, a data
phase. `XREG_RD`'s, which goes into `tmp`, stands in the next section. -/

namespace Sys2Proof.Machine

/-! ## Transactions as exchanges -/

theorem attempt_of_ok {α : Type} {lost : State → State} {x : Op α} {s t : State} {a : α} (h : x s = (.ok a, t)) :
    attempt lost x s = (.ok a, t) := by
  simp only [attempt, h]

theorem attempt_of_fail {α : Type} {lost : State → State} {x : Op α} {s t : State} {c : Cause} (h : x s = (.fail c, t)) :
    attempt lost x s = (.fail c, lost t.voidTransients) := by
  simp only [attempt, h]

theorem xregRdTry_eq (adr : Word) (s : State) :
    xregRdTry adr s = andThen (exchange (readCommand s.cfg adr).1 adr 0 4 (readCommand s.cfg adr).2)
      (fun _ => andThen (spiDataRead .tmp 4 (readCommand s.cfg adr).2) fun _ t => (.ok (leWord t.tmp), t)) s :=
  commandThen_eq_exchangeThen _ adr 0 4 _ _ s

theorem xregWrTry_eq (adr dat : Word) (s : State) :
    xregWrTry adr dat s = exchange (writeCommand s.cfg adr).1 adr dat 4 (writeCommand s.cfg adr).2 s := rfl

theorem xblkRdTry_eq (adr : Word) (buf : BufId) (off n : Nat) (s : State) :
    xblkRdTry adr buf off n s = andThen (exchange .dmaExtRead adr 0 (BitVec.ofNat 32 n) false)
      (fun _ => spiDataRead (.host buf off) n false) s :=
  commandThen_eq_exchangeThen .dmaExtRead adr 0 _ _ _ s

theorem xblkWrTry_eq (adr : Word) (buf : BufId) (off n : Nat) (s : State) :
    xblkWrTry adr buf off n s = andThen (exchange .dmaExtWrite adr 0 (BitVec.ofNat 32 n) false)
      (fun _ => spiDataWrite buf off n) s :=
  commandThen_eq_exchangeThen .dmaExtWrite adr 0 _ _ _ s

/-! ## The command of a transaction -/

/-- The internal command up to the clockless limit, with its flag set, and the single-word command above it (R171). -/
theorem readCommand_body (c : Cfg) (adr : Word) :
    c.opc.code (readCommand c adr).1 :: payload (readCommand c adr).1 adr 0 4 (readCommand c adr).2 = readRegBody c adr := by
  simp only [readCommand, readRegBody, BitVec.le_def]
  split
  · simp only [payload, internalByte, if_true, BitVec.or_comm _ (0x80 : Byte)]
    rfl
  · rfl

/-- The same for a register write (R172). -/
theorem writeCommand_body (c : Cfg) (adr dat : Word) :
    c.opc.code (writeCommand c adr).1 :: payload (writeCommand c adr).1 adr dat 4 (writeCommand c adr).2 = writeRegBody c adr dat := by
  simp only [writeCommand, writeRegBody, BitVec.le_def]
  split
  · simp only [payload, internalByte, if_true, BitVec.or_comm _ (0x80 : Byte)]
    rfl
  · rfl

/-- A register read has trailers when its command is not the clockless one. -/
theorem readTrailer_readCommand (c : Cfg) (crcOff : Bool) (adr : Word) :
    readTrailer crcOff (readCommand c adr).2 = regTrailer c crcOff adr := by
  simp only [readTrailer, regTrailer, readCommand, BitVec.le_def]
  split
  · rename_i h
    rw [decide_eq_false (Nat.not_lt.mpr h)]
    rfl
  · rename_i h
    rw [decide_eq_true (Nat.lt_of_not_le h)]
    rfl

/-! ## `XREG_WR`, `XBLK_RD`, `XBLK_WR` answered -/

theorem sameBlock_report {s t : State} (h : s.SameBlock t) (r : Nat) (res : Result) : s.SameBlock (t.report r res) :=
  ⟨h.addr, h.off, h.sz, h.acc⟩

theorem exec_xblkRd {s : State} {buf : BufId} {off : Nat} {n : BitVec 16} (hs : s.onBus)
    (hb : s.bufferReady s.issuer buf off n.toNat true) (adr : Word) :
    exec (.xblkRd adr buf off n) s = .next (conclude s.issuer (fun _ => .ok) (xblkRd adr buf off n.toNat s)) :=
  (withBus_of_onBus hs _).trans (withBuffer_of_ready hb _)

theorem exec_xblkWr {s : State} {buf : BufId} {off : Nat} {n : BitVec 16} (hs : s.onBus)
    (hb : s.bufferReady s.issuer buf off n.toNat false) (adr : Word) :
    exec (.xblkWr adr buf off n) s = .next (conclude s.issuer (fun _ => .ok) (xblkWr adr buf off n.toNat s)) :=
  (withBus_of_onBus hs _).trans (withBuffer_of_ready hb _)

/-- `XREG_WR` is its exchange, answered at once. -/
theorem xregWr_answered {s : State} (hw : s.cfg.wf = true) {adr dat : Word} {rest : List Answer}
    (ho : s.oracle = scriptOf (writeRegEvents s.cfg s.crcOff adr dat) ++ rest) :
    ∃ t code clk, xregWr adr dat s = (.ok (), t) ∧ Commanded code clk s t (writeRegEvents s.cfg s.crcOff adr dat) rest := by
  rw [writeRegEvents, ← writeCommand_body] at ho ⊢
  obtain ⟨t, ht, hdone⟩ := exchange_answered hw (writeCommand s.cfg adr).1 adr dat 4 (writeCommand s.cfg adr).2 ho
  exact ⟨t, _, _, attempt_of_ok ht, hdone⟩

/-- Settles O32: the registers of an exchange are all that is written. -/
theorem registerWriteSendsTheWord : Obligations.RegisterWriteSendsTheWord := by
  intro s adr dat rest hs ho
  obtain ⟨t, _, _, ht, hdone⟩ := xregWr_answered hs.1.1 ho
  have hexec : exec (.xregWr adr dat) s = .next (conclude s.issuer (fun _ => .ok) (xregWr adr dat s)) := runBus_of_onBus hs _ _
  rw [hexec, conclude_of_ok ht]
  refine ⟨_, rfl, did_of_played (commanded_played hdone) .ok, ?_⟩
  obtain ⟨_, _, _, _, _, _, rfl⟩ := hdone
  exact ⟨⟨rfl, rfl, rfl⟩, rfl, rfl, rfl, ⟨rfl, rfl, rfl, rfl⟩, fun _ _ => rfl⟩

/-- `XBLK_RD` is an exchange answered at once and the frames that play (`spiDataRead_plays`). -/
theorem xblkRd_answered {s : State} (hw : s.cfg.wf = true) {adr : Word} {buf : BufId} {off : Nat} {bs : List Byte}
    {fs : List SlaveFrame} {rest : List Answer} (hbs : bs ≠ [])
    (hfs : fs.map (fun f => f.body) = piecesOf s.cfg.dataPktSz bs.length bs) (hacc : ∀ f ∈ fs, f.accepted s.cfg.rspRetry)
    (ho : s.oracle = scriptOf (blockReadEvents s.cfg s.crcOff adr bs.length fs) ++ rest) :
    ∃ t, xblkRd adr buf off bs.length s = (.ok (), t) ∧
      Played s t (blockReadEvents s.cfg s.crcOff adr bs.length fs) rest (s.mem.writeRun buf off bs) ∧
      t.order = s.order ∧ t.att = s.att ∧ s.SameBlock t ∧ t.tmp = s.tmp := by
  rw [blockReadEvents, ← blockBody_eq] at ho ⊢
  rw [scriptOf_append, List.append_assoc] at ho
  obtain ⟨t, ht, hdone⟩ := exchange_answered hw .dmaExtRead adr 0 (BitVec.ofNat 32 bs.length) false ho
  have hplayed := commanded_played hdone
  have hdata := spiDataRead_plays (off := s.crcOff) (m := s.mem) (buf := buf) (o := off) (dataPktSz_pos hw) false hbs hfs hacc
  rw [Bool.not_false, Bool.and_true] at hdata
  obtain ⟨u, hu, hread⟩ := hdata t rest hplayed.outside.cfg hplayed.outside.crcOff hplayed.mem hplayed.oracle
  have honly := spiDataRead_onlyDataReads (buf := buf) (off := off) false bs.length t
  rw [hu] at honly
  refine ⟨u, attempt_of_ok ((xblkRdTry_eq adr buf off bs.length s).trans ((andThen_of_ok ht).trans hu)),
    played_trans hplayed hread, ?_⟩
  obtain ⟨_, _, _, _, _, _, rfl⟩ := hdone
  obtain ⟨_, _, _, _, _, _, _, _, _, rfl, _⟩ := honly
  exact ⟨rfl, rfl, ⟨rfl, rfl, rfl, rfl⟩, rfl⟩

/-- Settles O33: the bytes of the frames are what the region holds. -/
theorem blockReadFillsTheBuffer : Obligations.BlockReadFillsTheBuffer := by
  intro s adr buf off n bs fs rest hs hb hlen hfs hacc ho
  rw [← hlen] at ho ⊢
  obtain ⟨t, ht, hplayed, horder, hatt, hblock, htmp⟩ := xblkRd_answered (buf := buf) (off := off) hs.1.1
    (List.ne_nil_of_length_pos (hlen ▸ hb.1)) hfs hacc ho
  have hbytes : s.SameBytesBut t buf off bs.length := by
    have honly := onlyIn_sameBytesBut (R := some (buf, off, bs.length)) (xblkRd_onlyAt adr buf off bs.length s) rfl
    rwa [ht] at honly
  rw [exec_xblkRd hs hb, ← hlen, conclude_of_ok ht]
  refine ⟨_, rfl, did_of_played hplayed .ok, ?_, hbytes, horder, hatt, sameBlock_report hblock _ _, htmp⟩
  rw [report_mem, hplayed.mem]
  exact known?_writeRun s.mem buf off bs

theorem sent_played {s t : State} {evs : List Event} {rest : List Answer} (h : Sent s t evs rest) : Played s t evs rest s.mem := by
  obtain ⟨_, _, _, _, _, rfl⟩ := h
  exact ⟨rfl, rfl, rfl, rfl, ⟨rfl, rfl, rfl, rfl, rfl, rfl, rfl, rfl⟩⟩

/-- A write data phase with every burst accepted: the bytes it reads from the buffer, in its frames (42_spi_data R151, R152). -/
theorem spiDataWrite_answered {s : State} (hw : s.cfg.wf = true) {buf : BufId} {off n : Nat} (hn : 1 ≤ n) {rest : List Answer}
    (ho : s.oracle = writeAnswers s.cfg s.crcOff n ++ rest) :
    ∃ t bs, spiDataWrite buf off n s = (.ok (), t) ∧ bs.length = n ∧ s.agrees buf off bs ∧
      Sent s t (writePhase s.crcOff (piecesOf s.cfg.dataPktSz bs.length bs)) rest ∧ t.order = 3 := by
  have hp := dataPktSz_pos hw
  have hlen := readRun_length s.mem buf n off s.draws
  have hanswers := writeAnswers_eq hp s.crcOff hlen
  obtain ⟨t, ht, hsent, hview⟩ := (spiDataWrite_sends (v := s.writeView) (buf := buf) (off := off) hp hn).accepted s rest rfl
    (ho.trans (congrArg (· ++ rest) hanswers))
  refine ⟨t, (s.mem.readRun buf n off s.draws).1, ht, hlen, readRun_agrees s buf off n s.draws, ?_, congrArg WriteView.order hview⟩
  rw [hlen]
  exact hsent

/-- `XBLK_WR` is an exchange answered at once and a write data phase with every burst accepted. -/
theorem xblkWr_answered {s : State} (hw : s.cfg.wf = true) {adr : Word} {buf : BufId} {off n : Nat} (hn : 1 ≤ n)
    {rest : List Answer} (ho : s.oracle = commandAnswers s.cfg.opc.dmaExtWrite ++ writeAnswers s.cfg s.crcOff n ++ rest) :
    ∃ t bs, xblkWr adr buf off n s = (.ok (), t) ∧ bs.length = n ∧ s.agrees buf off bs ∧
      Played s t (blockWriteEvents s.cfg s.crcOff adr bs) rest s.mem ∧
      t.order = 3 ∧ t.att = s.att ∧ s.SameBlock t ∧ t.tmp = s.tmp := by
  rw [List.append_assoc] at ho
  obtain ⟨t, ht, hdone⟩ := exchange_answered hw .dmaExtWrite adr 0 (BitVec.ofNat 32 n) false ho
  have hplayed := commanded_played hdone
  obtain ⟨hcfg, hcrcOff, _⟩ := hplayed.outside
  obtain ⟨u, bs, hu, hlen, hagrees, hsent, horder⟩ := spiDataWrite_answered (s := t) (buf := buf) (off := off) (hcfg ▸ hw) hn
    (by rw [hcfg, hcrcOff]; exact hplayed.oracle)
  have hwritten := sent_played hsent
  rw [hcfg, hcrcOff, hplayed.mem] at hwritten
  refine ⟨u, bs, attempt_of_ok ((xblkWrTry_eq adr buf off n s).trans ((andThen_of_ok ht).trans hu)), hlen, ?_, ?_, horder, ?_⟩
  · rwa [State.agrees, hplayed.mem] at hagrees
  · rw [hlen] at hwritten
    rw [blockWriteEvents, ← blockBody_eq, hlen]
    exact played_trans hplayed hwritten
  · obtain ⟨_, _, _, _, _, _, rfl⟩ := hdone
    obtain ⟨_, _, _, _, _, rfl⟩ := hsent
    exact ⟨rfl, ⟨rfl, rfl, rfl, rfl⟩, rfl⟩

/-- Settles O34: nothing is written but the registers, and nothing read after the data phase. -/
theorem blockWriteSendsTheBuffer : Obligations.BlockWriteSendsTheBuffer := by
  intro s adr buf off n rest hs hb ho
  obtain ⟨t, bs, ht, hlen, hagrees, hplayed, horder, hatt, hblock, htmp⟩ := xblkWr_answered (adr := adr) (buf := buf) (off := off)
    hs.1.1 hb.1 ho
  rw [exec_xblkWr hs hb, conclude_of_ok ht]
  refine ⟨_, bs, rfl, hlen, hagrees, did_of_played hplayed .ok, horder, hatt, sameBlock_report hblock _ _, htmp, fun g k => ?_⟩
  rw [report_mem, hplayed.mem]

end Sys2Proof.Machine
end

section
/-! PROOFS. `XREG_RD` answered (43_transactions R171, 20_memory R53): the four bytes that a data phase into `tmp` brings, in whatever
frames, and the word they make. -/

namespace Sys2Proof.Machine

/-! ## A read data phase into `tmp` -/

/-- Besides the events and the oracle only the registers of a read data phase and `tmp` have been written. -/
def ReadToTmp (s t : State) (evs : List Event) (rest : List Answer) : Prop :=
  ∃ b k i r n bs, t = { s with
    h := s.h ++ evs, oracle := rest, rsp := b, rk := k, ix := i, rem := r, nb := n, tmp := bs }

theorem readToTmp_trans {s t u : State} {e1 e2 : List Event} {r1 r2 : List Answer} (a : ReadToTmp s t e1 r1)
    (b : ReadToTmp t u e2 r2) : ReadToTmp s u (e1 ++ e2) r2 := by
  obtain ⟨_, _, _, _, _, _, rfl⟩ := a
  obtain ⟨b, k, i, r, n, bs, rfl⟩ := b
  exact ⟨b, k, i, r, n, bs, by rw [← List.append_assoc]⟩

theorem readToTmp_setPhase {s t : State} {evs : List Event} {rest : List Answer} (h : ReadToTmp s t evs rest) (i n : Nat) :
    ReadToTmp s (t.setPhase i n) evs rest := by
  obtain ⟨b, k, _, _, n, bs, rfl⟩ := h
  exact ⟨b, k, _, _, n, bs, rfl⟩

theorem readToTmp_played {s t : State} {evs : List Event} {rest : List Answer} (h : ReadToTmp s t evs rest) :
    Played s t evs rest s.mem := by
  obtain ⟨_, _, _, _, _, _, rfl⟩ := h
  exact ⟨rfl, rfl, rfl, rfl, ⟨rfl, rfl, rfl, rfl, rfl, rfl, rfl, rfl⟩⟩

/-- The trailer of a frame is read and thrown away, where there is one (42_spi_data R150). -/
theorem discardTrailer_answered {s : State} {clk : Bool} {trail : List Byte} (htrail : trail.length = 2) {rest : List Answer}
    (ho : s.oracle = scriptOf (if readTrailer s.crcOff clk then [.r 2 (some trail)] else []) ++ rest) :
    discardTrailer clk s = (.ok (), { s with
      h := s.h ++ (if readTrailer s.crcOff clk then [.r 2 (some trail)] else []), oracle := rest }) := by
  unfold discardTrailer
  cases hb : readTrailer s.crcOff clk <;> rw [hb] at ho
  · simp only [Bool.false_eq_true, if_false, List.append_nil]
    rw [← show s.oracle = rest from ho]
  · exact andThen_of_ok (readBurst_good (n := 2) ho htrail)

/-- The turn of the last frame. -/
theorem frameThen_of_last {x : Op Unit} {s t : State} {ix rem : Nat} (hx : x s = (.ok (), t)) (hrem : rem ≤ t.cfg.dataPktSz)
    (next : Nat → Nat → Op Unit) : frameThen x next ix rem s = (.ok (), t.setPhase (ix + rem) 0) := by
  rw [frameThen, andThen_of_ok hx, andThen_of_ok (show assign _ t = (.ok (), _) from rfl)]
  simp only [setPhase_cfg, Nat.min_eq_left hrem, Nat.sub_self, if_true]

/-- The turn of any other frame. -/
theorem frameThen_of_more {x : Op Unit} {s t : State} {ix rem : Nat} (hx : x s = (.ok (), t)) (hrem : t.cfg.dataPktSz < rem)
    (next : Nat → Nat → Op Unit) :
    frameThen x next ix rem s = next (ix + t.cfg.dataPktSz) (rem - t.cfg.dataPktSz)
      (t.setPhase (ix + t.cfg.dataPktSz) (rem - t.cfg.dataPktSz)) := by
  rw [frameThen, andThen_of_ok hx, andThen_of_ok (show assign _ t = (.ok (), _) from rfl)]
  simp only [setPhase_cfg, Nat.min_eq_right hrem.le]
  rw [if_neg (by omega)]

/-- A frame the block accepts puts its body behind the bytes moved before it. -/
theorem readFrame_tmp {s : State} {clk : Bool} {f : SlaveFrame} (hf : f.accepted s.cfg.rspRetry) {ix : Nat}
    (hix : ix ≤ s.tmp.length) {rest : List Answer} (ho : s.oracle = scriptOf (f.events (readTrailer s.crcOff clk)) ++ rest) :
    ∃ t, readFrame .tmp clk ix f.body.length s = (.ok (), t) ∧
      ReadToTmp s t (f.events (readTrailer s.crcOff clk)) rest ∧
      t.tmp.take (ix + f.body.length) = s.tmp.take ix ++ f.body ∧ ix + f.body.length ≤ t.tmp.length := by
  obtain ⟨hlen, hmiss, hheader, htrail⟩ := hf
  simp only [SlaveFrame.events, scriptOf_append, List.append_assoc] at ho
  have haccept : isDataHeader f.header = true := decide_eq_true hheader
  have hawait := awaitByte_reads (accept := isDataHeader) (fun b => .dataRspTimeout b) (misses := f.misses)
    (fun x hx => decide_eq_false (hmiss x hx)) f.header (s := { s with nb := BitVec.ofNat 14 f.body.length }) hlen
    (by simp [haccept]) ho
  rw [if_pos haccept] at hawait
  have hread := readBurst_good (n := f.body.length)
    (rest := scriptOf (if readTrailer s.crcOff clk then [.r 2 (some f.trail)] else []) ++ rest)
    (s := State.afterReads { s with nb := BitVec.ofNat 14 f.body.length, rk := 0 } f.misses f.header _) rfl rfl
  have hstart : (s.tmp.take ix ++ f.body).length = ix + f.body.length := by
    rw [List.length_append, List.length_take_of_le hix]
  refine ⟨_, (andThen_of_ok rfl).trans ((andThen_of_ok hawait).trans ((andThen_of_ok hread).trans ((andThen_of_ok rfl).trans
      (discardTrailer_answered htrail rfl)))),
    ⟨f.header, 0 + BitVec.ofNat 4 f.misses.length, s.ix, s.rem, BitVec.ofNat 14 f.body.length,
      s.tmp.take ix ++ f.body ++ s.tmp.drop (ix + f.body.length), ?_⟩, List.take_left' hstart, ?_⟩
  · rw [SlaveFrame.events, ← List.append_assoc, ← List.append_assoc]
    rfl
  · rw [← hstart]
    exact (Nat.le_add_right _ _).trans_eq List.length_append.symm

/-- The frames of a read data phase put their bodies one behind the other. -/
theorem readFrames_tmp {c : Cfg} {off clk : Bool} {fuel ix : Nat} {bs : List Byte} {fs : List SlaveFrame} (hp : 1 ≤ c.dataPktSz)
    (hbs : bs ≠ []) (hfuel : bs.length ≤ fuel) (hfs : fs.map (fun f => f.body) = piecesOf c.dataPktSz fuel bs)
    (hacc : ∀ f ∈ fs, f.accepted c.rspRetry) {s : State} (hc : s.cfg = c) (hoff : s.crcOff = off) (hix : ix ≤ s.tmp.length)
    {rest : List Answer} (ho : s.oracle = scriptOf (readPhase (readTrailer off clk) fs) ++ rest) :
    ∃ t, readFrames .tmp clk fuel ix bs.length s = (.ok (), t) ∧ ReadToTmp s t (readPhase (readTrailer off clk) fs) rest ∧
      t.tmp.take (ix + bs.length) = s.tmp.take ix ++ bs := by
  induction fuel generalizing ix bs fs s with
  | zero => exact absurd (List.length_eq_zero_iff.mp (Nat.le_zero.mp hfuel)) hbs
  | succ fuel ih =>
    subst hc hoff
    rw [readFrames_succ]
    rcases Nat.lt_or_ge s.cfg.dataPktSz bs.length with hmore | hlast
    · rw [piecesOf_more hmore] at hfs
      obtain ⟨f, fs, rfl, hbody, hfs⟩ := List.map_eq_cons_iff.mp hfs
      obtain ⟨hf, hacc⟩ := List.forall_mem_cons.mp hacc
      have hlen : f.body.length = s.cfg.dataPktSz := by rw [hbody, List.length_take]; omega
      rw [readPhase, List.map_cons, List.flatten_cons] at ho ⊢
      rw [scriptOf_append, List.append_assoc] at ho
      obtain ⟨t, ht, hread, htake, hle⟩ := readFrame_tmp hf hix ho
      have hplayed := readToTmp_played hread
      have hcfg : t.cfg = s.cfg := hplayed.outside.cfg
      rw [hlen] at ht htake hle
      obtain ⟨u, hu, hlater, htakes⟩ := ih (ix := ix + s.cfg.dataPktSz)
        (s := t.setPhase (ix + s.cfg.dataPktSz) (bs.length - s.cfg.dataPktSz))
        (List.ne_nil_of_length_pos (by rw [List.length_drop]; omega)) (by rw [List.length_drop]; omega) hfs hacc hcfg
        hplayed.outside.crcOff hle hplayed.oracle
      rw [List.length_drop] at hu htakes
      refine ⟨u, ?_, readToTmp_trans (readToTmp_setPhase hread _ _) hlater, ?_⟩
      · rw [Nat.min_eq_right hmore.le, frameThen_of_more ht (by rwa [hcfg]), hcfg]
        exact hu
      · rw [Nat.add_assoc, Nat.add_sub_of_le hmore.le, setPhase_tmp, htake, hbody, List.append_assoc,
          List.take_append_drop] at htakes
        exact htakes
    · rw [piecesOf_last hbs hlast] at hfs
      obtain ⟨f, rfl, rfl⟩ := List.map_eq_singleton_iff.mp hfs
      rw [readPhase, List.map_singleton, List.flatten_singleton] at ho ⊢
      obtain ⟨t, ht, hread, htake, _⟩ := readFrame_tmp (hacc f (List.mem_singleton_self f)) hix ho
      have hcfg : t.cfg = s.cfg := (readToTmp_played hread).outside.cfg
      rw [Nat.min_eq_left hlast]
      exact ⟨_, frameThen_of_last ht (by rwa [hcfg]) _, readToTmp_setPhase hread _ _, htake⟩

/-- `SPI_DATA_READ` into `tmp` (42_spi_data R150): the bodies are its first bytes. -/
theorem spiDataRead_tmp {s : State} {clk : Bool} {bs : List Byte} {fs : List SlaveFrame} (hp : 1 ≤ s.cfg.dataPktSz) (hbs : bs ≠ [])
    (hfs : fs.map (fun f => f.body) = piecesOf s.cfg.dataPktSz bs.length bs) (hacc : ∀ f ∈ fs, f.accepted s.cfg.rspRetry)
    {rest : List Answer} (ho : s.oracle = scriptOf (readPhase (readTrailer s.crcOff clk) fs) ++ rest) :
    ∃ t, spiDataRead .tmp bs.length clk s = (.ok (), t) ∧ ReadToTmp s t (readPhase (readTrailer s.crcOff clk) fs) rest ∧
      t.tmp.take bs.length = bs := by
  obtain ⟨t, ht, hread, htake⟩ := readFrames_tmp (s := s.setPhase 0 bs.length) (ix := 0) hp hbs (le_refl _) hfs hacc rfl rfl
    (Nat.zero_le _) ho
  rw [Nat.zero_add] at htake
  refine ⟨t, spiDataRead_of_ok clk ht, ?_, htake⟩
  obtain ⟨b, k, i, r, n, bs, rfl⟩ := hread
  exact ⟨b, k, i, r, n, bs, rfl⟩

/-! ## The word -/

/-- Bytes shifted to their places are the bytes put together. -/
theorem or_shifts_eq_append (d0 d1 d2 d3 : Byte) :
    d0.setWidth 32 ||| d1.setWidth 32 <<< 8 ||| d2.setWidth 32 <<< 16 ||| d3.setWidth 32 <<< 24 =
      (d3 ++ d2 ++ d1 ++ d0 : BitVec 32) := by
  have hjoin : (d3 ++ d2 ++ d1 ++ d0).setWidth 32 =
      ((d3.setWidth 32 <<< 8 ||| d2.setWidth 32) <<< 8 ||| d1.setWidth 32) <<< 8 ||| d0.setWidth 32 := by
    simp only [BitVec.setWidth_append_eq_shiftLeft_setWidth_or]
  rw [BitVec.shiftLeft_or_distrib, BitVec.shiftLeft_or_distrib, BitVec.shiftLeft_or_distrib, ← BitVec.shiftLeft_add,
    ← BitVec.shiftLeft_add, ← BitVec.shiftLeft_add, BitVec.or_comm, BitVec.or_comm _ (d1.setWidth 32 <<< 8),
    BitVec.or_comm (d3.setWidth 32 <<< _)] at hjoin
  refine Eq.trans ?_ (hjoin.symm.trans (BitVec.setWidth_eq _))
  simp only [BitVec.or_assoc, Nat.reduceAdd]

/-- Four bytes as a word, the first one lowest (20_memory R53). -/
theorem leWord_of_take {bs : List Byte} {d0 d1 d2 d3 : Byte} (h : bs.take 4 = [d0, d1, d2, d3]) :
    leWord bs = d3 ++ d2 ++ d1 ++ d0 := by
  have hbyte : ∀ i, i < 4 → byteAt bs i = byteAt [d0, d1, d2, d3] i := fun i hi => by
    rw [byteAt, byteAt, ← h, List.getD_eq_getElem?_getD, List.getD_eq_getElem?_getD, List.getElem?_take_of_lt hi]
  rw [leWord, hbyte 0 (by decide), hbyte 1 (by decide), hbyte 2 (by decide), hbyte 3 (by decide)]
  exact or_shifts_eq_append d0 d1 d2 d3

/-- `XREG_RD` is an exchange answered at once and a data phase into `tmp`, whose first four bytes are the word (43_transactions R171). -/
theorem xregRd_answered {s : State} (hw : s.cfg.wf = true) {adr : Word} {d0 d1 d2 d3 : Byte} {fs : List SlaveFrame}
    (hfs : fs.map (fun f => f.body) = piecesOf s.cfg.dataPktSz 4 [d0, d1, d2, d3]) (hacc : ∀ f ∈ fs, f.accepted s.cfg.rspRetry)
    {rest : List Answer} (ho : s.oracle = scriptOf (readRegEvents s.cfg s.crcOff adr fs) ++ rest) :
    ∃ t, xregRd adr s = (.ok (d3 ++ d2 ++ d1 ++ d0), t) ∧ Played s t (readRegEvents s.cfg s.crcOff adr fs) rest s.mem ∧
      t.tmp.take 4 = [d0, d1, d2, d3] ∧ t.order = s.order ∧ t.att = s.att ∧ s.SameBlock t := by
  rw [readRegEvents, ← readCommand_body, ← readTrailer_readCommand] at ho ⊢
  rw [scriptOf_append, List.append_assoc] at ho
  obtain ⟨t, ht, hdone⟩ := exchange_answered hw (readCommand s.cfg adr).1 adr 0 4 (readCommand s.cfg adr).2 ho
  have hplayed := commanded_played hdone
  obtain ⟨hcfg, hcrcOff, _⟩ := hplayed.outside
  obtain ⟨u, hu, hread, htake⟩ := spiDataRead_tmp (s := t) (clk := (readCommand s.cfg adr).2) (bs := [d0, d1, d2, d3])
    (by rw [hcfg]; exact dataPktSz_pos hw) (List.cons_ne_nil _ _) (by rw [hcfg]; exact hfs) (by rw [hcfg]; exact hacc)
    (by rw [hcrcOff]; exact hplayed.oracle)
  rw [hcrcOff] at hread
  have hword : ((.ok (leWord u.tmp), u) : Ret Word × State) = (.ok (d3 ++ d2 ++ d1 ++ d0), u) := by
    rw [leWord_of_take htake]
  have hbytes := readToTmp_played hread
  rw [hplayed.mem] at hbytes
  refine ⟨u, attempt_of_ok ((xregRdTry_eq adr s).trans ((andThen_of_ok ht).trans ((andThen_of_ok hu).trans hword))),
    played_trans hplayed hbytes, htake, ?_⟩
  obtain ⟨_, _, _, _, _, _, rfl⟩ := hdone
  obtain ⟨_, _, _, _, _, _, rfl⟩ := hread
  exact ⟨rfl, rfl, ⟨rfl, rfl, rfl, rfl⟩⟩

/-- Settles O31: the word is the four bytes that a data phase into `tmp` leaves there. -/
theorem registerReadReturnsTheWord : Obligations.RegisterReadReturnsTheWord := by
  intro s adr d0 d1 d2 d3 fs rest hs hfs hacc ho
  obtain ⟨t, ht, hplayed, htmp, horder, hatt, hblock⟩ := xregRd_answered hs.1.1 hfs hacc ho
  have hexec : exec (.xregRd adr) s = .next (conclude s.issuer .okWord (xregRd adr s)) := runBus_of_onBus hs _ _
  rw [hexec, conclude_of_ok ht]
  refine ⟨_, rfl, did_of_played hplayed _, htmp, horder, hatt, sameBlock_report hblock _ _, fun g k => ?_⟩
  rw [report_mem, hplayed.mem]

end Sys2Proof.Machine
end

section
/-! PROOFS. A response that fails (41_spi_command R134, 43_transactions R171, 60_exceptions R223, R224) ends each of the four
transactions before its data phase. -/

namespace Sys2Proof.Machine

/-! ## An attempt that fails -/

theorem voidTransients_played (s : State) : Played s s.voidTransients [] s.oracle s.mem :=
  played_of_eq rfl rfl rfl rfl ⟨rfl, rfl, rfl, rfl, rfl, rfl, rfl, rfl⟩

/-- Failure entry adds no event, and the cause is the result given. -/
theorem did_of_attempt_fail {α : Type} {x : Op α} {lost : State → State}
    (hlost : ∀ u, Played u (lost u) [] u.oracle (lost u).mem) {s t : State} {c : Cause} {evs : List Event} {rest : List Answer}
    {m : Memory} (hx : x s = (.fail c, t)) (hp : Played s t evs rest m) (res : α → Result) :
    s.Did (conclude s.issuer res (attempt lost x s)) s.issuer evs rest (.fail c) := by
  have hentry := played_trans hp (played_trans (voidTransients_played t) (hlost t.voidTransients))
  rw [List.append_nil, List.append_nil, voidTransients_oracle, hp.oracle] at hentry
  rw [conclude_of_fail (attempt_of_fail hx)]
  exact did_of_played hentry (.fail c)

/-- A transaction whose exchange fails has done no more than that, and its result is the cause. -/
theorem exec_transaction_of_exchange_fail {s : State} {i : Instr} {body : List Byte} {n : Nat} (hs : s.onBus)
    (h : Transaction s i body n) :
    ∃ c adr dat sz clk, s.cfg.opc.code c :: payload c adr dat sz clk = body ∧
      ∀ t e evs rest m, exchange c adr dat sz clk s = (.fail e, t) → Played s t evs rest m →
        ∃ u, exec i s = .next u ∧ s.Did u s.issuer evs rest (.fail e) := by
  have hkept : ∀ u : State, Played u (id u) [] u.oracle (id u).mem := fun u =>
    played_of_eq rfl rfl rfl rfl (sameOutside_refl u)
  cases h with
  | regRead adr =>
    refine ⟨_, adr, 0, 4, _, readCommand_body s.cfg adr, fun t e evs rest m hx hp => ?_⟩
    exact ⟨_, runBus_of_onBus hs _ _, did_of_attempt_fail hkept ((xregRdTry_eq adr s).trans (andThen_of_fail hx)) hp _⟩
  | regWrite adr dat =>
    refine ⟨_, adr, dat, 4, _, writeCommand_body s.cfg adr dat, fun t e evs rest m hx hp => ?_⟩
    exact ⟨_, runBus_of_onBus hs _ _, did_of_attempt_fail hkept ((xregWrTry_eq adr dat s).trans hx) hp _⟩
  | blockRead adr buf off n hb =>
    refine ⟨.dmaExtRead, adr, 0, BitVec.ofNat 32 n.toNat, false, blockBody_eq _ adr n.toNat, fun t e evs rest m hx hp => ?_⟩
    have hlost : ∀ u : State, Played u (u.bufForget buf off n.toNat) [] u.oracle (u.bufForget buf off n.toNat).mem := fun u =>
      ⟨(List.append_nil _).symm, rfl, rfl, rfl, ⟨rfl, rfl, rfl, rfl, rfl, rfl, rfl, rfl⟩⟩
    exact ⟨_, exec_xblkRd hs hb adr,
      did_of_attempt_fail hlost ((xblkRdTry_eq adr buf off n.toNat s).trans (andThen_of_fail hx)) hp _⟩
  | blockWrite adr buf off n hb =>
    refine ⟨.dmaExtWrite, adr, 0, BitVec.ofNat 32 n.toNat, false, blockBody_eq _ adr n.toNat, fun t e evs rest m hx hp => ?_⟩
    exact ⟨_, exec_xblkWr hs hb adr,
      did_of_attempt_fail hkept ((xblkWrTry_eq adr buf off n.toNat s).trans (andThen_of_fail hx)) hp _⟩

/-! ## A response that fails -/

/-- The result that `SPI_CMD_RSP` by itself gives is that of the response inside a transaction. -/
theorem spiCmdRsp_of_exec_fail {s t : State} {cmd : Byte} {evs : List Event} {rest : List Answer} {c : Cause} (hs : s.onBus)
    (h : exec (.spiCmdRsp cmd) s = .next t) (hd : s.Did t s.issuer evs rest (.fail c)) :
    ∃ u, spiCmdRsp cmd s = (.fail c, u) ∧ Played s u evs rest u.mem := by
  rw [exec_spiCmdRsp hs] at h
  have hwithin := spiCmdRsp_within cmd s
  rcases hr : spiCmdRsp cmd s with ⟨a | e, u⟩ <;> rw [hr] at h hwithin <;> cases h
  · have hres := hd.results
    simp [conclude] at hres
  · obtain ⟨_, rfl⟩ : u.results = s.results ∧ e = c := by simpa [conclude] using hd.results
    exact ⟨u, rfl, hd.history, hd.oracle, rfl, hwithin.results, hwithin.outside⟩

/-- A transaction whose frame is accepted stands before its response in a state that has the frame's event, and fails as
`SPI_CMD_RSP` does there. -/
theorem exec_transaction_of_response_fail {s : State} {i : Instr} {body sent : List Byte} {n : Nat} {answers : List Answer}
    (hs : s.onBus) (h : Transaction s i body n) (ho : s.oracle = .good sent :: answers) :
    ∃ t, t.onBus ∧ t.cfg = s.cfg ∧ t.oracle = answers ∧ t.h.length = s.h.length + 1 ∧
      ∀ {u evs rest c}, exec (.spiCmdRsp (body.headD 0)) t = .next u → t.Did u t.issuer evs rest (.fail c) →
        ∃ v, exec i s = .next v ∧ s.Did v s.issuer (.w (frameBytes s.cfg s.crcOff body) true :: evs) rest (.fail c) := by
  obtain ⟨c, adr, dat, sz, clk, rfl, hfail⟩ := exec_transaction_of_exchange_fail hs h
  obtain ⟨t, ht, hsent⟩ := exchange_of_sent hs.1.1 c adr dat sz clk ho
  have hplayed := commanded_played hsent
  have hbus := commanded_onBus hsent hs
  refine ⟨t, hbus, hplayed.outside.cfg, hplayed.oracle, ?_, fun hexec hdid => ?_⟩
  · rw [hplayed.history, List.length_append, List.length_singleton]
  · obtain ⟨v, hv, hresponse⟩ := spiCmdRsp_of_exec_fail hbus hexec hdid
    exact hfail v _ _ _ _ (ht.trans hv) (played_trans hplayed hresponse)

/-- Settles O35: after the frame the response fails in the four ways of `responseFails`. -/
theorem failedResponseSkipsTheData : Obligations.FailedResponseSkipsTheData := by
  intro s i body es ss sent n last rest hs h cmd frame hne
  refine ⟨fun hes hlast ho => ?_, fun hes hss hnz hlast ho => ?_, fun hes ho => ?_, fun hes hss hnz ho => ?_⟩ <;>
    obtain ⟨t, hbus, hcfg, hrest, hindex, hfail⟩ := exec_transaction_of_response_fail hs h ho <;>
    obtain ⟨hecho, hstatus, hechoErr, hstatusErr⟩ := responseFails t cmd last es ss rest hbus hne
  · obtain ⟨u, hu, hdid, _⟩ := hecho (by rw [hcfg, hes]) hlast hrest
    exact hfail hu hdid
  · obtain ⟨u, hu, hdid, _⟩ := hstatus (by rwa [hcfg]) (by rwa [hcfg]) hnz hlast hrest
    exact hfail hu hdid
  · obtain ⟨u, hu, hdid⟩ := hechoErr (by rwa [hcfg]) hrest
    rw [hindex] at hdid
    exact hfail hu hdid
  · obtain ⟨u, hu, hdid⟩ := hstatusErr (by rwa [hcfg]) (by rwa [hcfg]) hnz hrest
    rw [hindex, Nat.add_assoc _ es.length, Nat.add_assoc _ (es.length + 1)] at hdid
    exact hfail hu hdid

end Sys2Proof.Machine
end

section
/-! PROOFS. Reset-and-retry (43_transactions R175, 60_exceptions R224, R225): the attempts of `RETRY` counted by its failed rounds. -/

namespace Sys2Proof.Machine

section
variable {α : Type} {x : Op α}

theorem failedRounds_zero_iff {s t : State} : FailedRounds x 0 s t ↔ t = s :=
  ⟨fun h => by cases h; rfl, fun h => by rw [h]; exact .zero s⟩

/-- The first of some failed rounds, and the others. -/
theorem failedRounds_succ_iff {k : Nat} {s t u : State} {c : Cause} (h : x s = (.fail c, t)) :
    FailedRounds x (k + 1) s u ↔ FailedRounds x k (afterFailure s t) u := by
  constructor
  · rintro (_ | ⟨hx, hrounds⟩)
    cases h.symm.trans hx
    exact hrounds
  · exact .succ h

theorem not_failedRounds_of_ok {k : Nat} {s t u : State} {a : α} (h : x s = (.ok a, t)) : ¬ FailedRounds x (k + 1) s u := by
  rintro (_ | ⟨hx, _⟩)
  cases h.symm.trans hx

theorem retryLoop_of_ok {k : Nat} {s t : State} {a : α} (h : x s = (.ok a, t)) : retryLoop x (k + 1) s = (.ok a, t) := by
  simp only [retryLoop, h]

theorem retryLoop_of_fail {k : Nat} {s t : State} {c : Cause} (h : x s = (.fail c, t)) :
    retryLoop x (k + 1) s = retryLoop x k (afterFailure s t) := by
  simp only [retryLoop, h]

/-- Success after failed rounds, fewer of them than there are attempts. -/
theorem retryLoop_ok_iff {n : Nat} {s u : State} {a : α} :
    retryLoop x n s = (.ok a, u) ↔ ∃ k t, k < n ∧ FailedRounds x k s t ∧ x t = (.ok a, u) := by
  induction n generalizing s with
  | zero =>
    constructor
    · intro h
      cases h
    · rintro ⟨_, _, hk, _⟩
      exact absurd hk (Nat.not_lt_zero _)
  | succ n ih =>
    rcases hx : x s with ⟨b | c, t⟩
    · rw [retryLoop_of_ok hx, ← hx]
      refine ⟨fun h => ⟨0, s, Nat.succ_pos n, .zero s, h⟩, ?_⟩
      rintro ⟨_ | k, v, _, hrounds, hv⟩
      · rwa [failedRounds_zero_iff.mp hrounds] at hv
      · exact absurd hrounds (not_failedRounds_of_ok hx)
    · rw [retryLoop_of_fail hx, ih]
      constructor
      · rintro ⟨k, v, hk, hrounds, hv⟩
        exact ⟨k + 1, v, Nat.succ_lt_succ hk, (failedRounds_succ_iff hx).mpr hrounds, hv⟩
      · rintro ⟨_ | k, v, hk, hrounds, hv⟩
        · rw [failedRounds_zero_iff.mp hrounds] at hv
          cases hx.symm.trans hv
        · exact ⟨k, v, Nat.lt_of_succ_lt_succ hk, (failedRounds_succ_iff hx).mp hrounds, hv⟩

/-- Failure when every attempt has failed, with one cause whatever those were. -/
theorem retryLoop_fail_iff {n : Nat} {s u : State} {c : Cause} :
    retryLoop x n s = (.fail c, u) ↔ c = .retryExhausted ∧ FailedRounds x n s u := by
  induction n generalizing s with
  | zero =>
    rw [failedRounds_zero_iff, retryLoop, raise, Prod.mk.injEq, Ret.fail.injEq, eq_comm, @eq_comm _ s]
  | succ n ih =>
    rcases hx : x s with ⟨b | d, t⟩
    · rw [retryLoop_of_ok hx]
      exact ⟨fun h => (nomatch h), fun h => absurd h.2 (not_failedRounds_of_ok hx)⟩
    · rw [retryLoop_of_fail hx, ih, failedRounds_succ_iff hx]

end

/-- `n` is the number of attempts, and `ATT` in its 4 bits is `OP_RETRY` after them (10_state R27; log entries 7, 24). -/
theorem attempts_of_opRetry {c : Cfg} {n : Nat} (hpos : 1 ≤ c.opRetry → n = c.opRetry) (hzero : c.opRetry = 0 → n = 16) :
    attempts c = n ∧ BitVec.ofNat 4 n = BitVec.ofNat 4 c.opRetry := by
  unfold attempts
  rcases Nat.eq_zero_or_pos c.opRetry with h | h
  · rw [hzero h, h]
    exact ⟨rfl, rfl⟩
  · rw [hpos h, if_neg h.ne']
    exact ⟨rfl, rfl⟩

/-- Settles O37: the loop's two ends, by induction on the attempts left. -/
theorem retryCountsAttempts : Obligations.RetryCountsAttempts := by
  intro α x s u n hpos hzero
  obtain ⟨rfl, hatt⟩ := attempts_of_opRetry hpos hzero
  exact ⟨hatt, fun a => retryLoop_ok_iff, fun c => retryLoop_fail_iff⟩

end Sys2Proof.Machine
end

section
/-! PROOFS. The lock and the mode flag (44_bus_abstraction R190, R198; log entry 14): what takes the lock, gives it back, or waits for
it; a requester's step while the lock is held; and the requester that waits for itself (70_reset R254). -/

namespace Sys2Proof.Machine

/-! ## The mode flag -/

/-- A lock that is free or one's own is held by no other. -/
theorem heldByOther_eq_false {s : State} {r : Nat} (h : s.lock = .free ∨ s.lock = .held r) : s.heldByOther r = false := by
  rcases h with h | h <;> simp [State.heldByOther, h]

theorem heldByOther_of_held {s : State} {r q : Nat} (hq : q ≠ r) (h : s.lock = .held q) : s.heldByOther r = true := by
  simp [State.heldByOther, h, hq]

theorem exec_setCrc {s : State} (ha : s.admits s.issuer) (h : s.lock = .free ∨ s.lock = .held s.issuer) (off : Bool) :
    exec (.setCrc off) s = .next ({ s with crcOff := off }.report s.issuer .done) :=
  (admit_of_admits ha _).trans (if_neg (by simp [heldByOther_eq_false h]))

theorem exec_setCrc_of_held {s : State} (ha : s.admits s.issuer) {q : Nat} (hq : q ≠ s.issuer) (h : s.lock = .held q) (off : Bool) :
    exec (.setCrc off) s = .refused .lockHeldByOther :=
  (admit_of_admits ha _).trans (if_pos (heldByOther_of_held hq h))

/-- Who may drive the bus may set the mode. -/
theorem lock_of_mayDrive {s : State} {r : Nat} (h : s.mayDrive r = true) : s.lock = .free ∨ s.lock = .held r := by
  simp only [State.mayDrive, Bool.or_eq_true, Bool.and_eq_true, decide_eq_true_eq] at h
  exact h.elim .inr fun hfree => .inl hfree.1

/-- Settles O47: `SET_CRC` leaves the requester on the bus, and the next frame has no CRC byte. -/
theorem setCrcWritesTheModeFlag : Obligations.SetCrcWritesTheModeFlag := by
  intro s off ha
  refine ⟨fun h => exec_setCrc ha h off, fun q hq h => exec_setCrc_of_held ha hq h off, rfl, fun rest hs hopc ho => ?_⟩
  have hreset : s.cfg.opc.code .reset = 0xCF := by rw [hopc]; rfl
  have hsent := exec_spiCmd_code (s := { s with crcOff := true }.report s.issuer .done) hs .reset 0 0 0 false ho
  rw [report_cfg, hreset] at hsent
  refine ⟨_, _, exec_setCrc ha (lock_of_mayDrive hs.2) true, hsent, ?_⟩
  rw [report_h, frameSent_h]
  rfl

/-! ## Taking the lock, giving it back, waiting for it -/

/-- Settles O48: each operation's branch on the lock. -/
theorem lockIsTakenAndGivenBack : Obligations.LockIsTakenAndGivenBack := by
  intro s r ha
  refine ⟨fun h => ?_, fun h => ?_, fun h => ?_, rfl, rfl⟩
  · exact (admit_of_admits ha _).trans (congrArg Host.Outcome.next (if_pos h))
  · exact (admit_of_admits ha _).trans (if_pos h)
  · exact (admit_of_admits ha _).trans (if_neg h)

/-- An operation that waits for the lock goes to the sequencer, and no further, while the lock is held. -/
theorem exec_of_waitsFor {s : State} {r : Nat} {i : Instr} (ha : s.admits r) (hl : s.lock ≠ .free) (h : waitsFor r i) :
    exec i s = .next (s.setSeq r (.waiting i)) := by
  rcases h with ⟨adr, rfl⟩ | ⟨adr, dat, rfl⟩ | rfl <;>
    exact (admit_of_admits ha _).trans (congrArg Host.Outcome.next (if_neg hl))

theorem chunkTurn_of_held {s : State} (hl : s.lock ≠ .free) (r : Nat) (b : BlockOp) :
    chunkTurn r b s = s.setSeq r (.block b) := if_neg hl

/-- Settles O49: the three operations that wait at their beginning, and the two that wait before their first chunk. -/
theorem operationsWaitForTheLock : Obligations.OperationsWaitForTheLock := by
  intro s r adr dat buf size ha hl
  refine ⟨exec_of_waitsFor ha hl (.inr (.inr rfl)), exec_of_waitsFor ha hl (.inl ⟨adr, rfl⟩),
    exec_of_waitsFor ha hl (.inr (.inl ⟨adr, dat, rfl⟩)), fun hb => ?_, fun hb => ?_⟩
  · exact (exec_block (w := false) ha hb).trans (congrArg Host.Outcome.next (chunkTurn_of_held hl r _))
  · exact (exec_block (w := true) ha hb).trans (congrArg Host.Outcome.next (chunkTurn_of_held hl r _))

/-! ## A step while the lock is held -/

/-- A requester taken out of a rising sequencer and put in again leaves it as it was. -/
theorem seqInsert_filter {l : List (Nat × SeqPos)} (hl : l.Pairwise (fun x y => x.1 < y.1)) {q : Nat} {p : SeqPos}
    (hp : l.lookup q = some p) : seqInsert (l.filter (fun x => decide (x.1 ≠ q))) q p = l := by
  induction l with
  | nil => cases hp
  | cons x l ih =>
    obtain ⟨k, y⟩ := x
    obtain ⟨hk, hl⟩ := List.pairwise_cons.mp hl
    rcases eq_or_ne k q with rfl | hne
    · obtain rfl : y = p := by simpa using hp
      have hrest : l.filter (fun x => decide (x.1 ≠ k)) = l :=
        List.filter_eq_self.mpr fun x hx => decide_eq_true (hk x hx).ne'
      rw [List.filter_cons_of_neg (by simp), hrest]
      cases l with
      | nil => rfl
      | cons z l => exact if_pos (hk z List.mem_cons_self)
    · have hp' : l.lookup q = some p := by simpa [List.lookup_cons, beq_eq_false_iff_ne.mpr hne.symm] using hp
      obtain ⟨l₁, l₂, rfl, _⟩ := List.lookup_eq_some_iff.mp hp'
      have hlt : k < q := hk (q, p) (by simp)
      rw [List.filter_cons_of_pos (by simpa using hne), seqInsert, if_neg (by omega), if_neg hne.symm, ih hl hp']

/-- While the lock is held, a requester with an operation in progress goes on waiting with it. -/
theorem stepOf_of_held {s : State} {q : Nat} {p : SeqPos} (hs : s.SeqSound) (hw : s.cfg.wf = true) (hp : s.seqOf q = some p)
    (hl : s.lock ≠ .free) : stepOf q s = .next { s with issuer := q } := by
  obtain ⟨hq, hsound⟩ := seqOf_sound hs hp
  have hback : (s.resume q).setSeq q p = { s with issuer := q } :=
    congrArg (fun l => { s with issuer := q, seqs := l }) (seqInsert_filter hs.1 hp)
  have ha : (s.resume q).admits q := ⟨hw, hq, lookup_filter_ne s.seqs q⟩
  cases p with
  | waiting i => rw [stepOf_of_waiting hp, exec_of_waitsFor ha hl hsound, hback]
  | block b => rw [stepOf_of_block hp, chunkTurn_of_held (s := s.resume q) hl, hback]

/-- Settles O50: its step puts it back where it stood. -/
theorem waitingStepChangesNothing : Obligations.WaitingStepChangesNothing := by
  intro s q p sched hs hw hsched hp hl
  rw [step_of_sched hw hsched]
  exact stepOf_of_held (s := { s with sched := sched }) ⟨hs.rising, hs.positions⟩ hw hp hl

/-! ## A requester's step and the others' positions -/

theorem seqOf_setSeq_of_ne (s : State) {r q : Nat} (h : q ≠ r) (p : SeqPos) : (s.setSeq r p).seqOf q = s.seqOf q :=
  (seqOf_setSeq s r q p).trans (if_neg h)

theorem seqOf_of_outside {s t : State} (h : s.SameOutside t) (q : Nat) : t.seqOf q = s.seqOf q :=
  congrArg (List.lookup q) h.seqs

theorem seqOf_resume_of_ne (s : State) {r q : Nat} (h : q ≠ r) : (s.resume r).seqOf q = s.seqOf q := by
  show (s.seqs.filter (fun x => decide (x.1 ≠ r))).lookup q = s.seqs.lookup q
  induction s.seqs with
  | nil => rfl
  | cons x l ih =>
    obtain ⟨k, y⟩ := x
    rcases eq_or_ne k r with rfl | hk
    · rw [List.filter_cons_of_neg (by simp), ih, List.lookup_cons, beq_eq_false_iff_ne.mpr h]
    · rw [List.filter_cons_of_pos (by simpa using hk), List.lookup_cons, List.lookup_cons, ih]

theorem turned_seqOf {s t : State} {r q : Nat} {b : BlockOp} (h : Turned s r b t) (hq : q ≠ r) : t.seqOf q = s.seqOf q := by
  cases h with
  | waits _ => exact seqOf_setSeq_of_ne s hq _
  | ended _ u => exact seqOf_of_outside u.outside q
  | goesOn u _ => exact (seqOf_setSeq_of_ne _ hq _).trans (seqOf_of_outside u.outside q)

/-- An instruction moves no requester's position but its own (10_state R24). -/
theorem executed_seqOf {s t : State} {i : Instr} (h : Executed s i t) {q : Nat} (hq : q ≠ i.requester?.getD s.issuer) :
    t.seqOf q = s.seqOf q := by
  cases h with
  | internal _ _ a _ => exact seqOf_of_outside a.outside q
  | register _ _ _ u => exact seqOf_of_outside u.outside q
  | mode _ | acquired _ | released _ => rfl
  | waits _ _ hw =>
    rw [requester_of_waitsFor hw] at hq
    exact seqOf_setSeq_of_ne s hq _
  | block _ _ hr _ _ _ hd =>
    rw [hr] at hq
    exact turned_seqOf hd hq

/-- A step moves no requester's position but that of the one the scheduler chose. -/
theorem stepped_seqOf {s t : State} (h : Stepped s t) {q : Nat} (hq : q ≠ s.turn.1) : t.seqOf q = s.seqOf q := by
  have hresume : (s.turn.2.resume s.turn.1).seqOf q = s.seqOf q := (seqOf_resume_of_ne _ hq).trans (turn_seqOf s q)
  cases h with
  | idle => exact turn_seqOf s q
  | again _ hw he => exact (executed_seqOf he (by rwa [requester_of_waitsFor hw])).trans hresume
  | chunk _ _ _ hd => exact (turned_seqOf hd hq).trans hresume
  | request _ _ _ hi he => exact (executed_seqOf he (by rwa [requester_of_issuedBy hi])).trans (turn_seqOf s q)

/-- Settles O51: its own step changes nothing, and another's can neither give its lock back nor move its position. -/
theorem selfDeadlockIsForever : Obligations.SelfDeadlockIsForever := by
  intro s t r hs ⟨hlock, hseq⟩ h
  have hdead : t.selfDeadlock r := by
    rcases eq_or_ne r s.turn.1 with rfl | hr
    · obtain ⟨p, hp⟩ := Option.isSome_iff_exists.mp hseq
      obtain ⟨hw, _⟩ := step_next h
      have hquiet := turn_quiet s
      have hstep : step s = stepOf s.turn.1 s.turn.2 := if_neg (by simp [hw])
      have hwait := stepOf_of_held (hquiet.seqs ⟨hs.rising, hs.positions⟩) (hquiet.cfg ▸ hw) ((turn_seqOf s _).trans hp)
        (by rw [hquiet.lock, hlock]; nofun)
      cases h.symm.trans (hstep.trans hwait)
      exact ⟨hquiet.lock.trans hlock, (congrArg Option.isSome (turn_seqOf s _)).trans hseq⟩
    · have hst := step_stepped hs h
      refine ⟨?_, by rwa [stepped_seqOf hst hr]⟩
      rcases (turn_of_stepped hst).lock with hl | ⟨hl, _⟩ | ⟨hl, _⟩
      · exact hl.trans hlock
      · cases hl.symm.trans hlock
      · cases hl.symm.trans hlock
        exact absurd rfl hr
  exact ⟨hdead, fun hover => by cases hover.2.symm.trans hdead.1⟩

end Sys2Proof.Machine
end

section
/-! PROOFS. The chunking law (44_bus_abstraction R194 to R196) with an answering slave: `exec_writeBlock_played` and
`exec_readBlock_played` run the chunks. -/

namespace Sys2Proof.Machine

/-- Settles O44: the chunks of a write play, and no byte of a buffer is written. -/
theorem writeBlockMovesEveryChunk : Obligations.WriteBlockMovesEveryChunk := by
  intro s r adr buf size bs sched rest ha hfree hz hb hknown chunks hs ho
  obtain ⟨t, u, ht, hu, hp⟩ := exec_writeBlock_played ha hfree hz hb hknown hs ho
  have hseq : ∀ q, u.seqOf q = s.seqOf q := fun q => congrArg (List.lookup q) hp.seqs
  exact ⟨t, u, ht, hu, hp.history, hp.oracle, hp.results, (hseq r).trans ha.2.2, fun q _ => hseq q, hp.lock, hp.crcOff, hp.cfg,
    hp.sched, fun g k => congrArg (fun m : Memory => m.get? g k) hp.mem⟩

/-- Settles O45: the chunks of a read play, and the buffers hold the run of bytes written from offset 0 on. -/
theorem readBlockMovesEveryChunk : Obligations.ReadBlockMovesEveryChunk := by
  intro s r adr buf size bs fss sched rest ha hfree hz hb hlen hfss hacc hs ho
  obtain ⟨t, u, ht, hu, hp⟩ := exec_readBlock_played ha hfree hz hb hlen hfss hacc hs ho
  have hseq : ∀ q, u.seqOf q = s.seqOf q := fun q => congrArg (List.lookup q) hp.seqs
  refine ⟨t, u, ht, hu, hp.history, hp.oracle, hp.results, (hseq r).trans ha.2.2, fun q _ => hseq q, hp.lock, hp.crcOff, hp.cfg,
    hp.sched, ?_, ?_⟩
  · rw [hp.mem, ← hlen, known?_writeRun]
  · have hbytes := onlyIn_sameBytesBut (R := some (buf, 0, bs.length)) (bufWrite_onlyAt s buf 0 bs) rfl
    rw [hlen] at hbytes
    intro g k hk
    rw [hp.mem]
    exact hbytes g k hk

end Sys2Proof.Machine
end

section
/-! PROOFS. The transactions under `RETRY` (43_transactions R175, R176): what each of them does first, whatever the transport answers;
rounds in which the transport is dead (95 V-T5); and the locked unit around the attempts (44_bus_abstraction R191 to R195). -/

namespace Sys2Proof.Machine

/-! ## Operations that begin with a command frame -/

/-- Under the configuration `c` and the mode `off` the operation's first event is the burst of the command frame of `body`; when it
succeeds it has left the registers of `RETRY` and of the chunk loop alone; and an `err` to its first burst ends it there. -/
structure Framed (c : Cfg) (off : Bool) (body : List Byte) {α : Type} (x : Op α) : Prop where
  begins : ∀ s, s.cfg = c → s.crcOff = off → ∃ ok evs, (x s).2.h = s.h ++ .w (frameBytes c off body) ok :: evs
  kept : ∀ s a t, s.cfg = c → s.crcOff = off → x s = (.ok a, t) → Within s t
  refused : ∀ s rest, s.cfg = c → s.crcOff = off → s.oracle = .err :: rest →
    ∃ e t, x s = (.fail e, t) ∧ Played s t [.w (frameBytes c off body) false] rest t.mem

section
variable {c : Cfg} {off : Bool} {body : List Byte} {α β : Type} {x y : Op α}

theorem framed_congr (h : ∀ s, s.cfg = c → x s = y s) (hy : Framed c off body y) : Framed c off body x where
  begins := fun s hc hoff => h s hc ▸ hy.begins s hc hoff
  kept := fun s a t hc hoff hx => hy.kept s a t hc hoff ((h s hc).symm.trans hx)
  refused := fun s rest hc hoff ho => h s hc ▸ hy.refused s rest hc hoff ho

theorem framed_command (hw : c.wf = true) (cmd : CmdName) (adr dat sz : Word) (clk : Bool) :
    Framed c off (c.opc.code cmd :: payload cmd adr dat sz clk) (command cmd adr dat sz clk) where
  begins := fun s hc hoff => by
    subst hc hoff
    obtain ⟨a, o, t, ht, hsent, _⟩ := command_result hw cmd adr dat sz clk
    rw [ht]
    exact ⟨_, [], (commanded_played hsent).history⟩
  kept := fun s a t _ _ h => by
    have hwithin := command_within cmd adr dat sz clk s
    rwa [h] at hwithin
  refused := fun s rest hc hoff ho => by
    subst hc hoff
    obtain ⟨a, o, t, ht, hsent, hscript⟩ := command_result hw cmd adr dat sz clk
    obtain ⟨rfl, rfl⟩ := hscript _ _ ho
    have hp := commanded_played hsent
    exact ⟨_, t, ht, hp.mem ▸ hp⟩

/-- What follows the frame appends to the history, and is not reached when the frame is refused. -/
theorem framed_andThen {f : α → Op β} (hx : Framed c off body x) (hf : ∀ a, Keeps Within (f a)) :
    Framed c off body (andThen x f) where
  begins := fun s hc hoff => by
    obtain ⟨ok, evs, hh⟩ := hx.begins s hc hoff
    rcases hr : x s with ⟨a | e, t⟩ <;> rw [hr] at hh
    · obtain ⟨later, hlater, _⟩ := (hf a t).grew
      rw [andThen_of_ok hr]
      exact ⟨ok, evs ++ later, by rw [hlater, hh, List.append_assoc, List.cons_append]⟩
    · rw [andThen_of_fail hr]
      exact ⟨ok, evs, hh⟩
  kept := fun s b u hc hoff h => by
    obtain ⟨a, t, ht, hu⟩ := andThen_ok h
    have hwithin := hf a t
    rw [hu] at hwithin
    exact within_trans (hx.kept s a t hc hoff ht) hwithin
  refused := fun s rest hc hoff ho => by
    obtain ⟨e, t, ht, hp⟩ := hx.refused s rest hc hoff ho
    exact ⟨e, t, andThen_of_fail ht, hp⟩

/-- Failure entry adds no event (60_exceptions R224). -/
theorem framed_attempt {lost : State → State} (hlost : ∀ u, Played u (lost u) [] u.oracle (lost u).mem)
    (hx : Framed c off body x) : Framed c off body (attempt lost x) where
  begins := fun s hc hoff => by
    obtain ⟨ok, evs, hh⟩ := hx.begins s hc hoff
    rcases hr : x s with ⟨a | e, t⟩ <;> rw [hr] at hh
    · rw [attempt_of_ok hr]
      exact ⟨ok, evs, hh⟩
    · rw [attempt_of_fail hr]
      exact ⟨ok, evs, by rw [(hlost _).history, List.append_nil]; exact hh⟩
  kept := fun s a t hc hoff h => by
    rcases hr : x s with ⟨b | e, u⟩
    · rw [attempt_of_ok hr] at h
      exact hx.kept s a t hc hoff (hr.trans h)
    · rw [attempt_of_fail hr] at h
      cases h
  refused := fun s rest hc hoff ho => by
    obtain ⟨e, t, ht, hp⟩ := hx.refused s rest hc hoff ho
    refine ⟨e, _, attempt_of_fail ht, ?_⟩
    have hentry := played_trans hp (played_trans (voidTransients_played t) (hlost t.voidTransients))
    rwa [List.append_nil, List.append_nil, voidTransients_oracle, hp.oracle] at hentry

theorem played_id (u : State) : Played u (id u) [] u.oracle (id u).mem := played_of_eq rfl rfl rfl rfl (sameOutside_refl u)

theorem played_bufForget (buf : BufId) (o n : Nat) (u : State) :
    Played u (u.bufForget buf o n) [] u.oracle (u.bufForget buf o n).mem :=
  ⟨(List.append_nil _).symm, rfl, rfl, rfl, ⟨rfl, rfl, rfl, rfl, rfl, rfl, rfl, rfl⟩⟩

/-! The four transactions (43_transactions R171 to R174). -/

theorem xregRd_framed (hw : c.wf = true) (adr : Word) : Framed c off (readRegBody c adr) (xregRd adr) := by
  rw [← readCommand_body]
  have hdata : Keeps Within (andThen (spiDataRead .tmp 4 (readCommand c adr).2) fun _ t => (.ok (leWord t.tmp), t)) :=
    within_andThen (spiDataRead_within .tmp 4 _) fun _ t => within_refl t
  refine framed_attempt played_id (framed_congr (fun s hc => ?_) (framed_andThen (framed_command hw _ adr 0 4 _) fun _ =>
    within_andThen (spiCmdRsp_within (c.opc.code (readCommand c adr).1)) fun _ => hdata))
  subst hc
  rfl

theorem xregWr_framed (hw : c.wf = true) (adr dat : Word) : Framed c off (writeRegBody c adr dat) (xregWr adr dat) := by
  rw [← writeCommand_body]
  refine framed_attempt played_id (framed_congr (fun s hc => ?_) (framed_andThen (framed_command hw _ adr dat 4 _) fun _ =>
    spiCmdRsp_within (c.opc.code (writeCommand c adr).1)))
  subst hc
  rfl

theorem xblkRd_framed (hw : c.wf = true) (adr : Word) (buf : BufId) (o n : Nat) :
    Framed c off (blockBody c.opc.dmaExtRead adr n) (xblkRd adr buf o n) := by
  rw [← blockBody_eq]
  refine framed_attempt (played_bufForget buf o n) (framed_congr (fun s hc => ?_)
    (framed_andThen (framed_command hw .dmaExtRead adr 0 (BitVec.ofNat 32 n) false) fun _ =>
      within_andThen (spiCmdRsp_within c.opc.dmaExtRead) fun _ => spiDataRead_within (.host buf o) n false))
  subst hc
  rfl

theorem xblkWr_framed (hw : c.wf = true) (adr : Word) (buf : BufId) (o n : Nat) :
    Framed c off (blockBody c.opc.dmaExtWrite adr n) (xblkWr adr buf o n) := by
  rw [← blockBody_eq]
  refine framed_attempt played_id (framed_congr (fun s hc => ?_)
    (framed_andThen (framed_command hw .dmaExtWrite adr 0 (BitVec.ofNat 32 n) false) fun _ =>
      within_andThen (spiCmdRsp_within c.opc.dmaExtWrite) fun _ => spiDataWrite_within buf o n))
  subst hc
  rfl

/-! ## Failed rounds -/

/-- Whatever fails in them, failed rounds do what an internal operation may do. -/
theorem failedRounds_inside (hx : Keeps Inside x) {k : Nat} {s u : State} (h : FailedRounds x k s u) : Inside s u := by
  induction h with
  | zero s => exact inside_refl s
  | @succ k s t u e ht _ ih =>
    have hin := hx s
    rw [ht] at hin
    exact inside_trans (afterFailure_inside hin) ih

/-- `ATT` counts the failed rounds in its 4 bits (10_state R27). -/
theorem failedRounds_att {k : Nat} {s u : State} (h : FailedRounds x k s u) : u.att = s.att + BitVec.ofNat 4 k := by
  induction h with
  | zero s => exact (BitVec.add_zero _).symm
  | @succ k s t u e _ _ ih =>
    rw [ih, BitVec.add_assoc, Nat.add_comm k, BitVec.ofNat_add]
    rfl

/-! ## A dead transport -/

/-- The bus reset of a dead round: its frame is refused, and so is the first read of its response (43_transactions R170). -/
theorem spiReset_refused {s : State} (hw : s.cfg.wf = true) {rest : List Answer} (ho : s.oracle = .err :: .err :: rest) :
    Played s (spiReset s)
      [.w (frameBytes s.cfg s.crcOff [s.cfg.opc.reset, 0xFF, 0xFF, 0xFF]) false, .r 1 none] rest s.mem := by
  obtain ⟨a, o, t, ht, hsent, hscript⟩ := command_result hw .reset 0 0 0 false
  obtain ⟨rfl, rfl⟩ := hscript _ _ ho
  have hp := commanded_played hsent
  obtain ⟨u, hu, hq⟩ := awaitByte_err (w := s.cfg.opc.reset) (misses := []) (.echoTimeout s.cfg.opc.reset) (by simp)
    (Nat.zero_le _) hp.oracle
  have hreset : spiReset s = u := by
    rw [spiReset, ht]
    exact congrArg Prod.snd (spiCmdRsp_of_echoPhase_fail hu)
  rw [hreset, ← hp.mem]
  exact played_trans hp hq

/-- One dead round: the attempt ends at its frame. -/
theorem deadRound_fails (hx : Framed c off body x) (hw : c.wf = true) {s : State} (hc : s.cfg = c) (hoff : s.crcOff = off)
    {rest : List Answer} (ho : s.oracle = .err :: .err :: .err :: rest) :
    ∃ e t, x s = (.fail e, t) ∧ Played s (afterFailure s t) (deadRound c off body) rest (afterFailure s t).mem := by
  obtain ⟨e, t, ht, hp⟩ := hx.refused s _ hc hoff ho
  have hcfg : t.cfg = c := hp.outside.cfg.trans hc
  have hreset := spiReset_refused (s := t) (hcfg ▸ hw) hp.oracle
  rw [hcfg, hp.outside.crcOff, hoff] at hreset
  obtain ⟨hh, ho', hm, hr, hout⟩ := played_trans hp hreset
  obtain ⟨h1, h2, h3, h4, h5, h6, h7, h8⟩ := hout
  exact ⟨e, t, ht, hh, ho', rfl, hr, h1, h2, h3, h4, h5, h6, h7, h8⟩

/-- Some dead rounds. -/
theorem deadRounds_fail (hx : Framed c off body x) (hw : c.wf = true) {n : Nat} {s : State} (hc : s.cfg = c)
    (hoff : s.crcOff = off) {rest : List Answer} (ho : s.oracle = List.replicate (3 * n) .err ++ rest) :
    ∃ u, FailedRounds x n s u ∧ Played s u (deadRounds n c off body) rest u.mem := by
  induction n generalizing s with
  | zero =>
    have hp := played_id s
    rw [show s.oracle = rest from ho] at hp
    exact ⟨s, .zero s, hp⟩
  | succ n ih =>
    obtain ⟨e, t, ht, hp⟩ := deadRound_fails hx hw hc hoff ho
    obtain ⟨u, hu, hq⟩ := ih (hp.outside.cfg.trans hc) (hp.outside.crcOff.trans hoff) hp.oracle
    refine ⟨u, .succ ht hu, ?_⟩
    rw [deadRounds, List.replicate_succ, List.flatten_cons]
    exact played_trans hp hq

theorem played_att (s : State) (n : BitVec 4) : Played s { s with att := n } [] s.oracle s.mem :=
  played_of_eq rfl rfl rfl rfl ⟨rfl, rfl, rfl, rfl, rfl, rfl, rfl, rfl⟩

/-- `RETRY` up to the attempt after `k` dead rounds, when that succeeds. -/
theorem retry_after_deadRounds (hx : Framed c off body x) (hw : c.wf = true) {k : Nat} {s : State} (hk : k < attempts c)
    (hc : s.cfg = c) (hoff : s.crcOff = off) {rest : List Answer} (ho : s.oracle = List.replicate (3 * k) .err ++ rest) :
    ∃ t, Played s t (deadRounds k c off body) rest t.mem ∧ t.att = BitVec.ofNat 4 k ∧ (k = 0 → t = { s with att := 0 }) ∧
      ∀ a u, x t = (.ok a, u) → retry x s = (.ok a, u) := by
  obtain ⟨t, hrounds, hp⟩ := deadRounds_fail hx hw (s := { s with att := 0 }) hc hoff ho
  refine ⟨t, played_trans (played_att s 0) hp, (failedRounds_att hrounds).trans (BitVec.zero_add _), fun h0 => ?_, fun a u hu => ?_⟩
  · subst h0
    exact failedRounds_zero_iff.mp hrounds
  · exact retryLoop_ok_iff.mpr ⟨k, t, hc ▸ hk, hrounds, hu⟩

/-- `RETRY` on a dead bus makes all its attempts. -/
theorem retry_dead (hx : Framed c off body x) (hw : c.wf = true) {s : State} (hc : s.cfg = c) (hoff : s.crcOff = off)
    {rest : List Answer} (ho : s.oracle = List.replicate (3 * attempts c) .err ++ rest) :
    ∃ u, retry x s = (.fail .retryExhausted, u) ∧ Played s u (deadRounds (attempts c) c off body) rest u.mem ∧
      u.att = BitVec.ofNat 4 (attempts c) := by
  obtain ⟨u, hrounds, hp⟩ := deadRounds_fail hx hw (s := { s with att := 0 }) hc hoff ho
  refine ⟨u, ?_, played_trans (played_att s 0) hp, (failedRounds_att hrounds).trans (BitVec.zero_add _)⟩
  exact retryLoop_fail_iff.mpr ⟨rfl, hc ▸ hrounds⟩

/-! ## The first event of `RETRY` -/

theorem retryLoop_begins (hx : Framed c off body x) (hi : Keeps Inside x) (k : Nat) {s : State} (hc : s.cfg = c)
    (hoff : s.crcOff = off) : ∃ ok evs, (retryLoop x (k + 1) s).2.h = s.h ++ .w (frameBytes c off body) ok :: evs := by
  obtain ⟨ok, evs, hh⟩ := hx.begins s hc hoff
  rcases hr : x s with ⟨a | e, t⟩ <;> rw [hr] at hh
  · rw [retryLoop_of_ok hr]
    exact ⟨ok, evs, hh⟩
  · obtain ⟨e1, h1, _⟩ := (spiReset_within t).grew
    obtain ⟨e2, h2, _⟩ := (retryLoop_inside hi k (afterFailure s t)).grew
    have hafter : (afterFailure s t).h = t.h ++ e1 := h1
    rw [retryLoop_of_fail hr, h2, hafter, hh]
    exact ⟨ok, evs ++ e1 ++ e2, by simp⟩

theorem retry_begins (hx : Framed c off body x) (hi : Keeps Inside x) {s : State} (hc : s.cfg = c) (hoff : s.crcOff = off) :
    ∃ ok evs, (retry x s).2.h = s.h ++ .w (frameBytes c off body) ok :: evs := by
  obtain ⟨k, hk⟩ := Nat.exists_eq_succ_of_ne_zero (attempts_pos s.cfg).ne'
  rw [retry, hk]
  exact retryLoop_begins hx hi k (s := { s with att := 0 }) hc hoff

/-! ## The locked unit -/

/-- A unit whose `RETRY` is known, with its events. -/
theorem lockedRetry_played {r : Nat} {s t : State} {res : Ret α} {evs : List Event} {rest : List Answer} {m : Memory}
    (hfree : s.lock = .free) (h : retry x (s.takeLock r) = (res, t)) (hp : Played (s.takeLock r) t evs rest m) :
    lockedRetry r x s = (res, t.dropLock r) ∧ Played s (t.dropLock r) (unitOf r evs) rest m := by
  obtain ⟨hcfg, hcrc, _, hseqs, hlens, hport, hissuer, hsched⟩ := hp.outside
  refine ⟨by rw [lockedRetry, h], ?_, hp.oracle, hp.mem, hp.results, hcfg, hcrc, hfree.symm, hseqs, hlens, hport, hissuer, hsched⟩
  simp [hp.history, unitOf]

/-- A unit that has succeeded: the attempt that did, and the failed ones before it. -/
theorem lockedRetry_ok {r : Nat} {s u : State} {a : α} (h : lockedRetry r x s = (.ok a, u)) :
    ∃ k t v, k < attempts s.cfg ∧ FailedRounds x k { s.takeLock r with att := 0 } t ∧ x t = (.ok a, v) ∧ u = v.dropLock r := by
  obtain ⟨hres, hu⟩ := Prod.mk.inj h
  obtain ⟨k, t, hk, hrounds, ht⟩ := retryLoop_ok_iff.mp (Prod.ext hres rfl : retry x (s.takeLock r) = (.ok a, _))
  exact ⟨k, t, _, hk, hrounds, ht, hu.symm⟩

/-- A unit that has failed: every attempt did. -/
theorem lockedRetry_fail {r : Nat} {s u : State} {e : Cause} (h : lockedRetry r x s = (.fail e, u)) :
    ∃ v, FailedRounds x (attempts s.cfg) { s.takeLock r with att := 0 } v ∧ u = v.dropLock r := by
  obtain ⟨hres, hu⟩ := Prod.mk.inj h
  obtain ⟨_, hrounds⟩ := retryLoop_fail_iff.mp (Prod.ext hres rfl : retry x (s.takeLock r) = (.fail e, _))
  exact ⟨_, hrounds, hu.symm⟩

/-- The events of a unit, whatever the transport answers: the command frame first, then bursts, all within R176's bound. -/
theorem lockedRetry_events {r n : Nat} {s : State} (hx : Framed s.cfg s.crcOff body x)
    (hi : Keeps Inside x) (hb : Keeps (Bounded s.cfg n) x) :
    ∃ ok inner, (lockedRetry r x s).2.h = s.h ++ unitOf r (.w (frameBytes s.cfg s.crcOff body) ok :: inner) ∧
      (∀ e ∈ inner, e.isBurst = true) ∧ inner.length + 1 ≤ retryCalls s.cfg n := by
  obtain ⟨ok, inner, hh⟩ := retry_begins (s := s.takeLock r) hx hi rfl rfl
  obtain ⟨evs, he, hburst⟩ := (retry_inside hi (s.takeLock r)).grew
  obtain ⟨_, hn, _⟩ := retry_bounded hb (s.takeLock r) rfl
  obtain rfl := List.append_cancel_left (he.symm.trans hh)
  rw [hh, List.length_append, List.length_cons] at hn
  refine ⟨ok, inner, ?_, (List.forall_mem_cons.mp hburst).2, by omega⟩
  show (retry x (s.takeLock r)).2.h ++ [.rel r] = _
  rw [hh]
  simp [unitOf]

/-- `ATT` after a unit: how many attempts failed, all of them or fewer. -/
theorem lockedRetry_att {r : Nat} {s : State} (hx : Framed s.cfg s.crcOff body x) (hi : Keeps Inside x) :
    ((∃ a, (lockedRetry r x s).1 = .ok a) ∧ ∃ k, k < attempts s.cfg ∧ (lockedRetry r x s).2.att = BitVec.ofNat 4 k) ∨
    ((∃ e, (lockedRetry r x s).1 = .fail e) ∧ (lockedRetry r x s).2.att = BitVec.ofNat 4 (attempts s.cfg)) := by
  rcases hr : lockedRetry r x s with ⟨a | e, u⟩
  · obtain ⟨k, t, v, hk, hrounds, ht, rfl⟩ := lockedRetry_ok hr
    have hout := (failedRounds_inside hi hrounds).outside
    have hatt := (hx.kept t a v hout.cfg hout.crcOff ht).att
    exact .inl ⟨⟨a, rfl⟩, k, hk, hatt.trans ((failedRounds_att hrounds).trans (BitVec.zero_add _))⟩
  · obtain ⟨v, hrounds, rfl⟩ := lockedRetry_fail hr
    exact .inr ⟨⟨e, rfl⟩, (failedRounds_att hrounds).trans (BitVec.zero_add _)⟩

/-- A unit of a transaction that stores to no host buffer. -/
theorem lockedRetry_sameBytes (hs : ∀ g a n, Keeps (OnlyAt g a n) x) (r : Nat) (s : State) : s.SameBytes (lockedRetry r x s).2 :=
  onlyIn_sameBytes (R := none) (retry_onlyAt (hs 0 0 0) (s.takeLock r)) rfl

end

end Sys2Proof.Machine
end

section
/-! PROOFS. The register operations (44_bus_abstraction R191, R192): one locked unit from a free lock, after dead rounds, on a dead bus,
and whatever the transport answers. -/

namespace Sys2Proof.Machine

/-! ## From a free lock -/

theorem exec_readReg {s : State} {r : Nat} (ha : s.admits r) (hfree : s.lock = .free) (adr : Word) :
    exec (.readReg r adr) s = .next ((lockedRetry r (xregRd adr) s).2.report r (readResult s.cfg (lockedRetry r (xregRd adr) s).1)) :=
  (admit_of_admits ha _).trans (congrArg Host.Outcome.next (if_pos hfree))

theorem exec_writeReg {s : State} {r : Nat} (ha : s.admits r) (hfree : s.lock = .free) (adr dat : Word) :
    exec (.writeReg r adr dat) s =
      .next ((lockedRetry r (xregWr adr dat) s).2.report r (.code (codeOf s.cfg (lockedRetry r (xregWr adr dat) s).1))) :=
  (admit_of_admits ha _).trans (congrArg Host.Outcome.next (if_pos hfree))

/-- An operation of any requester with its result given. -/
theorem did_report {s t : State} {evs : List Event} {rest : List Answer} {m : Memory} (h : Played s t evs rest m) (r : Nat)
    (res : Result) : s.Did (t.report r res) r evs rest res where
  history := h.history
  oracle := h.oracle
  results := congrArg (· ++ [(r, res)]) h.results
  outside := by
    obtain ⟨hcfg, hcrc, hlock, hseqs, hlens, hport, hissuer, hsched⟩ := h.outside
    exact ⟨hcfg, hcrc, hlock, hseqs, hlens, hport, hissuer, hsched⟩

/-! ## After dead rounds -/

/-- `WRITE_REG` answered after `k` dead rounds. -/
theorem writeReg_after_deadRounds {s : State} {r k : Nat} {adr dat : Word} {rest : List Answer} (ha : s.admits r)
    (hfree : s.lock = .free) (hk : k < attempts s.cfg)
    (ho : s.oracle = List.replicate (3 * k) .err ++ scriptOf (writeRegEvents s.cfg s.crcOff adr dat) ++ rest) :
    ∃ t, exec (.writeReg r adr dat) s = .next t ∧
      s.Did t r (unitOf r (deadRounds k s.cfg s.crcOff (writeRegBody s.cfg adr dat) ++
        writeRegEvents s.cfg s.crcOff adr dat)) rest (.code s.cfg.success) ∧
      t.att = BitVec.ofNat 4 k ∧ (k = 0 → s.SamePhase t ∧ t.order = s.order ∧ t.tmp = s.tmp ∧ s.SameBlock t) ∧ s.SameBytes t := by
  rw [List.append_assoc] at ho
  obtain ⟨t, hp, hatt, hzero, hretry⟩ := retry_after_deadRounds (s := s.takeLock r) (xregWr_framed ha.1 adr dat) ha.1 hk rfl rfl ho
  have hcfg : t.cfg = s.cfg := hp.outside.cfg
  have hcrc : t.crcOff = s.crcOff := hp.outside.crcOff
  obtain ⟨u, code, clk, hu, hdone⟩ := xregWr_answered (s := t) (hcfg ▸ ha.1) (by rw [hcfg, hcrc]; exact hp.oracle)
  have hplayed := commanded_played hdone
  rw [hcfg, hcrc] at hplayed
  obtain ⟨hunit, hdid⟩ := lockedRetry_played hfree (hretry _ u hu) (played_trans hp hplayed)
  have hbytes := lockedRetry_sameBytes (fun g a n => xregWr_onlyAt g a n adr dat) r s
  rw [hunit] at hbytes
  rw [exec_writeReg ha hfree, hunit]
  refine ⟨_, rfl, did_report hdid r _, ?_, fun h0 => ?_, hbytes⟩
  all_goals obtain ⟨_, _, _, _, _, _, rfl⟩ := hdone
  · exact hatt
  · obtain rfl := hzero h0
    exact ⟨⟨rfl, rfl, rfl⟩, rfl, rfl, rfl, rfl, rfl, rfl⟩

/-- `READ_REG` answered after `k` dead rounds. -/
theorem readReg_after_deadRounds {s : State} {r k : Nat} {adr : Word} {d0 d1 d2 d3 : Byte} {fs : List SlaveFrame}
    {rest : List Answer} (ha : s.admits r) (hfree : s.lock = .free) (hk : k < attempts s.cfg)
    (hfs : fs.map (fun f => f.body) = piecesOf s.cfg.dataPktSz 4 [d0, d1, d2, d3]) (hacc : ∀ f ∈ fs, f.accepted s.cfg.rspRetry)
    (ho : s.oracle = List.replicate (3 * k) .err ++ scriptOf (readRegEvents s.cfg s.crcOff adr fs) ++ rest) :
    ∃ t, exec (.readReg r adr) s = .next t ∧
      s.Did t r (unitOf r (deadRounds k s.cfg s.crcOff (readRegBody s.cfg adr) ++ readRegEvents s.cfg s.crcOff adr fs)) rest
        (.codeWord s.cfg.success (some (d3 ++ d2 ++ d1 ++ d0))) ∧
      t.att = BitVec.ofNat 4 k ∧ t.tmp.take 4 = [d0, d1, d2, d3] ∧ (k = 0 → t.order = s.order ∧ s.SameBlock t) ∧ s.SameBytes t := by
  rw [List.append_assoc] at ho
  obtain ⟨t, hp, hatt, hzero, hretry⟩ := retry_after_deadRounds (s := s.takeLock r) (xregRd_framed ha.1 adr) ha.1 hk rfl rfl ho
  have hcfg : t.cfg = s.cfg := hp.outside.cfg
  have hcrc : t.crcOff = s.crcOff := hp.outside.crcOff
  obtain ⟨u, hu, hplayed, htmp, horder, hatt', haddr, hoff, hsz, hacc'⟩ := xregRd_answered (s := t) (hcfg ▸ ha.1)
    (by rw [hcfg]; exact hfs) (by rw [hcfg]; exact hacc) (by rw [hcfg, hcrc]; exact hp.oracle)
  rw [hcfg, hcrc] at hplayed
  obtain ⟨hunit, hdid⟩ := lockedRetry_played hfree (hretry _ u hu) (played_trans hp hplayed)
  have hbytes := lockedRetry_sameBytes (fun g a n => xregRd_onlyAt g a n adr) r s
  rw [hunit] at hbytes
  rw [exec_readReg ha hfree, hunit]
  refine ⟨_, rfl, did_report hdid r _, hatt'.trans hatt, htmp, fun h0 => ?_, hbytes⟩
  obtain rfl := hzero h0
  exact ⟨horder, haddr, hoff, hsz, hacc'⟩

/-- Settles O38: `k` dead rounds, and the transaction answered in the state they leave. -/
theorem registerOperationsSucceed : Obligations.RegisterOperationsSucceed :=
  fun _ _ _ _ _ _ _ _ _ _ _ ha hfree hk =>
    ⟨writeReg_after_deadRounds ha hfree hk, readReg_after_deadRounds ha hfree hk⟩

/-! ## Whatever the transport answers -/

/-- The unit of a register operation: its events, its account, and how many attempts failed, all of them or fewer. -/
theorem lockedRetry_register {α : Type} {x : Op α} {s : State} {body : List Byte} {n : Nat} (hfree : s.lock = .free)
    (hx : Framed s.cfg s.crcOff body x) (hi : Keeps Inside x) (hb : Keeps (Bounded s.cfg n) x)
    (hs : ∀ g a m, Keeps (OnlyAt g a m) x) (r : Nat) (res : Ret α → Result) :
    let u := (lockedRetry r x s).2.report r (res (lockedRetry r x s).1)
    ∃ inner, s.Did u r (unitOf r inner) u.oracle (res (lockedRetry r x s).1) ∧ (∀ e ∈ inner, e.isBurst = true) ∧
      1 ≤ inner.length ∧ inner.length ≤ retryCalls s.cfg n ∧ s.SameBytes u ∧
      (((∃ a, (lockedRetry r x s).1 = .ok a) ∧ ∃ k, k < attempts s.cfg ∧ u.att = BitVec.ofNat 4 k) ∨
        ((∃ e, (lockedRetry r x s).1 = .fail e) ∧ u.att = BitVec.ofNat 4 (attempts s.cfg))) := by
  have hunit := lockedRetry_unit (R := none) (r := r) hfree hi hb (retry_onlyAt (hs 0 0 0) _)
  obtain ⟨ok, inner, hh, hburst, hn⟩ := lockedRetry_events (r := r) hx hi hb
  exact ⟨_, did_report ⟨hh, rfl, rfl, hunit.results, hunit.outside⟩ r _, List.forall_mem_cons.mpr ⟨rfl, hburst⟩,
    Nat.succ_pos _, hn, lockedRetry_sameBytes hs r s, lockedRetry_att hx hi⟩

/-- Settles O40: the code is success when an attempt has succeeded, and `M2M_ERR_BUS_FAIL` when all have failed. -/
theorem registerOperationsAreLockedUnits : Obligations.RegisterOperationsAreLockedUnits := by
  intro s r adr dat ha hfree
  refine ⟨?_, ?_⟩
  · obtain ⟨inner, hdid, hburst, hone, hn, hbytes, hend⟩ := lockedRetry_register hfree (xregRd_framed ha.1 adr) (xregRd_inside adr)
      (xregRd_bounded (dataPktSz_pos ha.1) adr) (fun g a n => xregRd_onlyAt g a n adr) r (readResult s.cfg)
    refine ⟨_, inner, _, exec_readReg ha hfree adr, hdid, hburst, hone, hn, hbytes, ?_⟩
    rcases hend with ⟨⟨v, hv⟩, hatt⟩ | ⟨⟨e, he⟩, hatt⟩
    · exact .inl ⟨⟨v, by rw [hv]; rfl⟩, hatt⟩
    · exact .inr ⟨by rw [he]; rfl, hatt⟩
  · obtain ⟨inner, hdid, hburst, hone, hn, hbytes, hend⟩ := lockedRetry_register hfree (xregWr_framed ha.1 adr dat)
      (xregWr_inside adr dat) (xregWr_bounded s.cfg adr dat) (fun g a n => xregWr_onlyAt g a n adr dat) r
      (fun x => .code (codeOf s.cfg x))
    refine ⟨_, inner, _, exec_writeReg ha hfree adr dat, hdid, hburst, hone, hn, hbytes, ?_⟩
    rcases hend with ⟨⟨v, hv⟩, hatt⟩ | ⟨⟨e, he⟩, hatt⟩
    · exact .inl ⟨by rw [hv]; rfl, hatt⟩
    · exact .inr ⟨by rw [he]; rfl, hatt⟩

/-! ## On a dead bus -/

/-- The unit of a transaction on a dead bus (95 V-T5). -/
theorem lockedRetry_dead {α : Type} {x : Op α} {s : State} {body : List Byte} (hfree : s.lock = .free) (hw : s.cfg.wf = true)
    (hx : Framed s.cfg s.crcOff body x) (r : Nat) {rest : List Answer}
    (ho : s.oracle = List.replicate (3 * attempts s.cfg) .err ++ rest) :
    ∃ u, lockedRetry r x s = (.fail .retryExhausted, u) ∧
      Played s u (unitOf r (deadRounds (attempts s.cfg) s.cfg s.crcOff body)) rest u.mem ∧
      u.att = BitVec.ofNat 4 (attempts s.cfg) := by
  obtain ⟨t, ht, hp, hatt⟩ := retry_dead (s := s.takeLock r) hx hw rfl rfl ho
  obtain ⟨hunit, hplayed⟩ := lockedRetry_played hfree ht hp
  exact ⟨_, hunit, hplayed, hatt⟩

theorem writeReg_dead {s : State} {r : Nat} {adr dat : Word} {rest : List Answer} (ha : s.admits r) (hfree : s.lock = .free)
    (ho : s.oracle = List.replicate (3 * attempts s.cfg) .err ++ rest) :
    ∃ t, exec (.writeReg r adr dat) s = .next t ∧
      s.Did t r (unitOf r (deadRounds (attempts s.cfg) s.cfg s.crcOff (writeRegBody s.cfg adr dat))) rest
        (.code s.cfg.errBusFail) ∧ t.att = BitVec.ofNat 4 (attempts s.cfg) ∧ s.SameBytes t := by
  obtain ⟨u, hunit, hp, hatt⟩ := lockedRetry_dead hfree ha.1 (xregWr_framed ha.1 adr dat) r ho
  have hbytes := lockedRetry_sameBytes (fun g a n => xregWr_onlyAt g a n adr dat) r s
  rw [hunit] at hbytes
  rw [exec_writeReg ha hfree, hunit]
  exact ⟨_, rfl, did_report hp r _, hatt, hbytes⟩

theorem readReg_dead {s : State} {r : Nat} {adr : Word} {rest : List Answer} (ha : s.admits r) (hfree : s.lock = .free)
    (ho : s.oracle = List.replicate (3 * attempts s.cfg) .err ++ rest) :
    ∃ t, exec (.readReg r adr) s = .next t ∧
      s.Did t r (unitOf r (deadRounds (attempts s.cfg) s.cfg s.crcOff (readRegBody s.cfg adr))) rest
        (.codeWord s.cfg.errBusFail none) ∧ t.att = BitVec.ofNat 4 (attempts s.cfg) ∧ s.SameBytes t := by
  obtain ⟨u, hunit, hp, hatt⟩ := lockedRetry_dead hfree ha.1 (xregRd_framed ha.1 adr) r ho
  have hbytes := lockedRetry_sameBytes (fun g a n => xregRd_onlyAt g a n adr) r s
  rw [hunit] at hbytes
  rw [exec_readReg ha hfree, hunit]
  exact ⟨_, rfl, did_report hp r _, hatt, hbytes⟩

end Sys2Proof.Machine
end

section
/-! PROOFS. One turn of the chunk loop (44_bus_abstraction R194 to R197): what follows a chunk that has been moved and one that has not,
whatever the transport answers; a block operation of one chunk, and one on a dead bus. -/

namespace Sys2Proof.Machine

/-! ## What follows a chunk -/

section
variable {s u : State} {r : Nat} {b : BlockOp}

/-- After a chunk that has been moved, its success code being 0, the loop goes on from its own registers. -/
theorem chunkTurn_of_ok (hfree : s.lock = .free) (hz : s.cfg.success = 0) (hc : u.cfg = s.cfg)
    (h : lockedRetry r (chunkOp s.cfg b) (s.loadBlock b) = (.ok (), u)) :
    chunkTurn r b s = afterChunk r b false (u.loadBlock b) := by
  rw [chunkTurn, if_pos hfree, h]
  show afterChunk r b false { u.loadBlock b with acc := 0 + u.cfg.success } = _
  rw [hc, hz]
  rfl

/-- After one that has not, the operation is over with `M2M_ERR_BUS_FAIL`, which is not 0; a read has lost what it had still to move. -/
theorem chunkTurn_of_fail (hfree : s.lock = .free) (hw : s.cfg.wf = true) (hb : (SeqPos.block b).sound s.cfg r)
    (hc : u.cfg = s.cfg) {e : Cause} (h : lockedRetry r (chunkOp s.cfg b) (s.loadBlock b) = (.fail e, u)) :
    ∃ m, chunkTurn r b s = { u with acc := s.cfg.errBusFail, mem := m }.report r (.code s.cfg.errBusFail) ∧
      (b.write = false → (chunkTurn r b s).lostBytes b.buf (chunkSize s.cfg * b.chunk) (bytesLeft s.cfg b)) := by
  obtain ⟨_, _, herr, _⟩ := (cfg_wf_iff s.cfg).mp hw
  have hacc : (0 : Code) + u.cfg.errBusFail = s.cfg.errBusFail := by
    rw [hc]
    exact BitVec.zero_add _
  have hturn : chunkTurn r b s = endBlock r b true { u with acc := s.cfg.errBusFail } := by
    rw [chunkTurn, if_pos hfree, h, ← hacc]
    exact if_pos (.inr (by rw [hacc]; exact herr))
  rw [hturn, endBlock]
  cases hbw : b.write with
  | true => exact ⟨u.mem, rfl, nofun⟩
  | false =>
    refine ⟨_, rfl, fun _ k hk hlt => ?_⟩
    show (u.mem.forget b.buf (b.off u.cfg).toNat (b.sz u.cfg).toNat).get? b.buf k = none
    rw [hc, off_toNat hb, sz_toNat hb, get?_forget, if_pos ⟨rfl, hk, hlt⟩]

/-! ## The chunk's transaction -/

/-- The first event of a chunk is its command frame (R194 to R196). -/
theorem chunkOp_framed {c : Cfg} {off : Bool} (hw : c.wf = true) (hb : (SeqPos.block b).sound c r) :
    Framed c off (chunkBody c b) (chunkOp c b) := by
  unfold chunkBody chunkOp
  rw [← chunkBytes_eq hb]
  split
  · exact xblkWr_framed hw _ _ _ _
  · exact xblkRd_framed hw _ _ _ _

/-- `XBLK_RD` that succeeds has given every byte of its region a value (43_transactions R173). -/
theorem xblkRd_ok {adr : Word} {buf : BufId} {o n : Nat} {t : State} (hw : s.cfg.wf = true) (hn : 1 ≤ n)
    (h : xblkRd adr buf o n s = (.ok (), t)) : ∃ bs, t.mem.known? buf n o = some bs := by
  rcases hr : xblkRdTry adr buf o n s with ⟨_ | e, v⟩
  · rw [xblkRd, attempt_of_ok hr] at h
    cases h
    obtain ⟨_, t1, h1, hr⟩ := andThen_ok hr
    obtain ⟨_, t2, h2, hr⟩ := andThen_ok hr
    have hcmd := (command_within .dmaExtRead adr 0 (BitVec.ofNat 32 n) false s).outside.cfg
    have hrsp := (spiCmdRsp_within s.cfg.opc.dmaExtRead t1).outside.cfg
    rw [h1] at hcmd
    rw [h2] at hrsp
    have hp : 1 ≤ t2.cfg.dataPktSz := by
      rw [hrsp.trans hcmd]
      exact dataPktSz_pos hw
    rcases spiDataRead_spec (buf := buf) (off := o) (clk := false) hp hn with ⟨bs, _, hu, hknown, _⟩ | ⟨_, _, hu, _⟩
    · cases hr.symm.trans hu
      exact ⟨bs, hknown⟩
    · cases hr.symm.trans hu
  · rw [xblkRd, attempt_of_fail hr] at h
    cases h

/-- A chunk of a read that has been moved. -/
theorem chunkUnit_known (hw : s.cfg.wf = true) (hb : (SeqPos.block b).sound s.cfg r) (hread : b.write = false)
    (h : lockedRetry r (chunkOp s.cfg b) (s.loadBlock b) = (.ok (), u)) :
    ∃ bs, u.mem.known? b.buf (min (bytesLeft s.cfg b) (chunkSize s.cfg)) (chunkSize s.cfg * b.chunk) = some bs := by
  obtain ⟨_, t, v, _, hrounds, ht, rfl⟩ := lockedRetry_ok h
  have hcfg : t.cfg = s.cfg := (failedRounds_inside (chunkOp_inside s.cfg b) hrounds).outside.cfg
  have hC := chunkSize_pos hw
  have hleft : 0 < bytesLeft s.cfg b := Nat.sub_pos_of_lt hb
  rw [chunkOp, if_neg (by simp [hread])] at ht
  have hknown := xblkRd_ok (hcfg ▸ hw) (by rw [chunkBytes_eq hb]; omega) ht
  rwa [off_toNat hb, chunkBytes_eq hb] at hknown

/-! ## A turn, whatever the transport answers -/

theorem turned_sameBase {t : State} (h : Turned s r b t) :
    s.SameBase t ∧ t.sched = s.sched ∧ OnlyIn (b.stores s.cfg) s t := by
  cases h with
  | waits _ => exact ⟨⟨rfl, rfl, rfl, rfl, rfl, rfl⟩, rfl, onlyIn_of_eq rfl⟩
  | ended _ w | goesOn w _ =>
    have o := w.outside
    exact ⟨⟨o.cfg, o.crcOff, o.lock, o.bufLens, o.port, o.issuer⟩, o.sched, onlyIn_trans w.stores (onlyIn_of_eq rfl)⟩

theorem stores_of_write {c : Cfg} (h : b.write = true) : b.stores c = none := if_pos h

/-- A write stores nothing, a read in what it has still to move. -/
theorem onlyIn_stores_sameBytesBut {c : Cfg} {t : State} (h : OnlyIn (b.stores c) s t) :
    s.SameBytesBut t b.buf (chunkSize c * b.chunk) (bytesLeft c b) := by
  cases hbw : b.write with
  | true => exact fun g k _ => onlyIn_sameBytes h (stores_of_write hbw) g k
  | false => exact onlyIn_sameBytesBut h (if_neg (by simp [hbw]))

/-- What follows a chunk's unit adds no event to it. -/
theorem chunkTurn_h (hfree : s.lock = .free) :
    (chunkTurn r b s).h = (lockedRetry r (chunkOp s.cfg b) (s.loadBlock b)).2.h := by
  have hafter : ∀ (failed : Bool) (v : State), (afterChunk r b failed v).h = v.h := fun failed v => by
    rcases afterChunk_spec r b failed v with ⟨w, rfl | rfl, he⟩ | ⟨_, _, he⟩ <;> rw [he] <;> rfl
  rw [chunkTurn, if_pos hfree]
  rcases endChunk_spec r b (lockedRetry r (chunkOp s.cfg b) (s.loadBlock b)) with ⟨_, he⟩ | ⟨_, _, he⟩ <;>
    exact (congrArg State.h he).trans (hafter _ _)

/-- A chunk that has been moved: the operation is over with code 0, or stands before the next chunk. -/
theorem chunkTurn_moved (hfree : s.lock = .free) (hw : s.cfg.wf = true) (hz : s.cfg.success = 0) (hidle : s.seqOf r = none)
    (hb : (SeqPos.block b).sound s.cfg r) (hu : (s.loadBlock b).SameOutside u) (hres : u.results = s.results)
    (h : lockedRetry r (chunkOp s.cfg b) (s.loadBlock b) = (.ok (), u)) : ChunkMoved s r b (chunkTurn r b s) := by
  have hc : u.cfg = s.cfg := hu.cfg
  have hsz : (b.sz (u.loadBlock b).cfg).toNat = bytesLeft s.cfg b := by rw [loadBlock_cfg, hc, sz_toNat hb]
  have hknown := fun hread => chunkUnit_known hw hb hread h
  rw [chunkTurn_of_ok hfree hz hc h]
  rcases Nat.lt_or_ge (chunkSize s.cfg) (bytesLeft s.cfg b) with hmore | hlast
  · have hnext : (SeqPos.block b.advance).sound s.cfg r := sound_of_bytesLeft (by rw [bytesLeft_advance]; omega)
    rw [afterChunk_of_more (by rwa [hsz, loadBlock_cfg, hc]) rfl]
    refine ⟨rfl, hknown, .inr ⟨hmore, hres, (seqOf_setSeq _ r r _).trans (if_pos rfl), ?_, ?_, ?_⟩⟩
    · show b.advance.addr u.cfg = _
      rw [hc]
      rfl
    · show (b.advance.off u.cfg).toNat = _
      rw [hc, off_toNat hnext]
      rfl
    · show (b.advance.sz u.cfg).toNat = _
      rw [hc, sz_toNat hnext, bytesLeft_advance]
  · rw [afterChunk_of_last (by rwa [hsz, loadBlock_cfg, hc])]
    exact ⟨rfl, hknown, .inl ⟨hlast, congrArg (· ++ [(r, Result.code 0)]) hres, (seqOf_of_outside hu r).trans hidle⟩⟩

/-- A turn of the chunk loop from a free lock. -/
theorem chunkTurn_chunkTurned (hfree : s.lock = .free) (hw : s.cfg.wf = true) (hz : s.cfg.success = 0) (hidle : s.seqOf r = none)
    (hb : (SeqPos.block b).sound s.cfg r) : ChunkTurned s r b (chunkTurn r b s) := by
  have hturned := chunkTurn_turned hw hb
  obtain ⟨hbase, _, hstores⟩ := turned_sameBase hturned
  have hunit := lockedRetry_unit (s := s.loadBlock b) (r := r) hfree (chunkOp_inside s.cfg b) (chunkOp_bounded (dataPktSz_pos hw) hb)
    (retry_chunkOp_stores hb _)
  obtain ⟨ok, inner, hh, hburst, hn⟩ := lockedRetry_events (s := s.loadBlock b) (r := r) (chunkOp_framed hw hb)
    (chunkOp_inside s.cfg b) (chunkOp_bounded (dataPktSz_pos hw) hb)
  refine ⟨ok, inner, (chunkTurn_h hfree).trans hh, hburst, hn, hbase.cfg, hbase.crcOff, hbase.lock.trans hfree, hbase.bufLens,
    hbase.port, fun q hq => turned_seqOf hturned hq, fun hbw => onlyIn_sameBytes hstores (stores_of_write hbw),
    onlyIn_stores_sameBytesBut hstores, ?_⟩
  rcases hr : lockedRetry r (chunkOp s.cfg b) (s.loadBlock b) with ⟨_ | e, u⟩ <;> rw [hr] at hunit
  · exact .inl (chunkTurn_moved hfree hw hz hidle hb hunit.outside hunit.results hr)
  · obtain ⟨m, hturn, hlost⟩ := chunkTurn_of_fail hfree hw hb hunit.outside.cfg hr
    refine .inr ⟨?_, ?_, ?_, hlost⟩ <;> rw [hturn]
    · exact congrArg (· ++ [(r, Result.code s.cfg.errBusFail)]) hunit.results
    · exact (seqOf_of_outside hunit.outside r).trans hidle
    · rfl

end

theorem newBlock_sound {c : Cfg} {w : Bool} {adr : Word} {buf : BufId} {size : Word} (h : 1 ≤ size.toNat) (r : Nat) :
    (SeqPos.block (newBlock w adr buf size)).sound c r := by
  show chunkSize c * 0 < size.toNat
  omega

/-- A step takes the requester out of the sequencer before its turn, which for the others is no change. -/
theorem chunkTurned_of_resume {s t : State} {r : Nat} {b : BlockOp} {sched : List Nat}
    (h : ChunkTurned (({ s with sched := sched } : State).resume r) r b t) : ChunkTurned s r b t := by
  obtain ⟨ok, inner, hh, hburst, hn, hcfg, hcrc, hlock, hlens, hport, hseq, hrest⟩ := h
  exact ⟨ok, inner, hh, hburst, hn, hcfg, hcrc, hlock, hlens, hport,
    fun q hq => (hseq q hq).trans (seqOf_resume_of_ne { s with sched := sched } hq), hrest⟩

/-- Settles O43: both are `chunkTurn_chunkTurned`, the second from a state out of which the requester's position has been taken. -/
theorem firstChunkWhateverTheSlaveDoes : Obligations.FirstChunkWhateverTheSlaveDoes := by
  refine ⟨fun s r w adr buf size i ha hfree hz hb hi => ?_, fun s r b sched hs hw hfree hz hsched hp => ?_⟩
  · subst hi
    have hsound : (SeqPos.block (newBlock w adr buf size)).sound s.cfg r := newBlock_sound hb.1 r
    obtain ⟨hbase, hsched, _⟩ := turned_sameBase (chunkTurn_turned ha.1 hsound)
    exact ⟨_, exec_block ha hb, chunkTurn_chunkTurned hfree ha.1 hz ha.2.2 hsound, hbase.issuer, hsched⟩
  · obtain ⟨_, hsound⟩ := seqOf_sound ⟨hs.rising, hs.positions⟩ hp
    obtain ⟨hbase, hsched', _⟩ := turned_sameBase
      (chunkTurn_turned (s := ({ s with sched := sched } : State).resume r) hw hsound)
    have hturned := chunkTurn_chunkTurned (s := ({ s with sched := sched } : State).resume r) hfree hw hz
      (lookup_filter_ne s.seqs r) hsound
    exact ⟨_, (step_of_sched hw hsched).trans (stepOf_of_block (s := { s with sched := sched }) hp),
      chunkTurned_of_resume hturned, hbase.issuer, hsched'⟩

/-! ## A block operation of one chunk -/

/-- A block operation that fits in one chunk is one transaction. -/
theorem chunkOp_newBlock {c : Cfg} {w : Bool} {adr : Word} {buf : BufId} {size : Word} (hpos : 1 ≤ size.toNat)
    (h : size.toNat ≤ chunkSize c) :
    chunkOp c (newBlock w adr buf size) = if w then xblkWr adr buf 0 size.toNat else xblkRd adr buf 0 size.toNat := by
  have hs : (SeqPos.block (newBlock w adr buf size)).sound c 0 := newBlock_sound hpos 0
  have hbytes : chunkBytes c (newBlock w adr buf size) = size.toNat := by
    rw [chunkBytes_eq hs]
    exact Nat.min_eq_left h
  rw [chunkOp, hbytes, off_toNat hs, addr_newBlock]
  rfl

theorem off_newBlock (c : Cfg) (w : Bool) (adr : Word) (buf : BufId) (size : Word) : (newBlock w adr buf size).off c = 0 := rfl

theorem sz_newBlock (c : Cfg) (w : Bool) (adr : Word) (buf : BufId) (size : Word) : (newBlock w adr buf size).sz c = size :=
  BitVec.sub_zero size

section
variable {s t : State} {r : Nat} {w : Bool} {adr size : Word} {buf : BufId}

/-- The state in which the first attempt of a block operation's first chunk begins. -/
def State.firstAttempt (s : State) (r : Nat) (b : BlockOp) : State := { (s.loadBlock b).takeLock r with att := 0 }

/-- A block operation of one chunk whose first attempt succeeds. -/
theorem exec_oneChunk (ha : s.admits r) (hfree : s.lock = .free) (hz : s.cfg.success = 0)
    (hb : s.bufferReady r buf 0 size.toNat (!w)) (hsize : size.toNat ≤ chunkSize s.cfg)
    (h : chunkOp s.cfg (newBlock w adr buf size) (s.firstAttempt r (newBlock w adr buf size)) = (.ok (), t))
    {evs : List Event} {rest : List Answer} {m : Memory}
    (hp : Played (s.firstAttempt r (newBlock w adr buf size)) t evs rest m) :
    exec (if w then .writeBlock r adr buf size else .readBlock r adr buf size) s =
        .next (((t.dropLock r).loadBlock (newBlock w adr buf size)).report r (.code 0)) ∧
      Played s (t.dropLock r) (unitOf r evs) rest m := by
  have hretry : retry (chunkOp s.cfg (newBlock w adr buf size)) ((s.loadBlock (newBlock w adr buf size)).takeLock r) = (.ok (), t) :=
    retryLoop_ok_iff.mpr ⟨0, _, attempts_pos s.cfg, .zero _, h⟩
  obtain ⟨hunit, hplayed⟩ := lockedRetry_played (s := s.loadBlock (newBlock w adr buf size)) hfree hretry (played_trans
    (played_att _ 0) hp)
  have hcfg : t.cfg = s.cfg := hp.outside.cfg
  obtain ⟨h1, h2, h3, h4, h5, h6, h7, h8⟩ := hplayed.outside
  refine ⟨?_, hplayed.history, hplayed.oracle, hplayed.mem, hplayed.results, h1, h2, h3, h4, h5, h6, h7, h8⟩
  rw [exec_block ha hb, chunkTurn_of_ok (u := t.dropLock r) hfree hz hcfg hunit, afterChunk_of_last]
  · rfl
  · rw [loadBlock_cfg, dropLock_cfg, hcfg, sz_newBlock]
    exact hsize

end

/-- Settles O41: the one chunk is `XBLK_WR` answered. -/
theorem writeBlockOfOneChunk : Obligations.WriteBlockOfOneChunk := by
  intro s r adr buf size rest ha hfree hz hb hsize ho
  obtain ⟨t, bs, ht, hlen, hagrees, hp, horder, hatt, _, htmp⟩ := xblkWr_answered (s := s.firstAttempt r (newBlock true adr buf size))
    (adr := adr) (buf := buf) (off := 0) ha.1 hb.1 ho
  obtain ⟨hexec, hh, hor, hm, hres, hout⟩ := exec_oneChunk (w := true) ha hfree hz hb hsize
    ((congrFun (chunkOp_newBlock hb.1 hsize) _).trans ht) hp
  refine ⟨_, bs, hexec, hlen, hagrees, hh, hor, congrArg (· ++ [(r, Result.code 0)]) hres, hout.seqs,
    ⟨hout.cfg, hout.crcOff, hout.lock, hout.bufLens, hout.port, hout.issuer⟩, addr_newBlock _ _ _ _ _, off_newBlock _ _ _ _ _,
    sz_newBlock _ _ _ _ _, rfl, hatt, horder, htmp, fun g k => congrArg (fun m : Memory => m.get? g k) hm⟩

/-- Settles O42: the one chunk is `XBLK_RD` answered, which stores its bytes as one run. -/
theorem readBlockOfOneChunk : Obligations.ReadBlockOfOneChunk := by
  intro s r adr buf size bs fs rest ha hfree hz hb hsize hlen hfs hacc ho
  rw [← hlen] at ho
  obtain ⟨t, ht, hp, horder, hatt, _, htmp⟩ := xblkRd_answered (s := s.firstAttempt r (newBlock false adr buf size)) (adr := adr)
    (buf := buf) (off := 0) ha.1 (List.ne_nil_of_length_pos (hlen ▸ hb.1)) hfs hacc ho
  rw [hlen] at ht hp
  obtain ⟨hexec, hh, hor, hm, hres, hout⟩ := exec_oneChunk (w := false) ha hfree hz hb hsize
    ((congrFun (chunkOp_newBlock hb.1 hsize) _).trans ht) hp
  have hbytes := onlyIn_sameBytesBut (R := some (buf, 0, bs.length)) (bufWrite_onlyAt s buf 0 bs) rfl
  rw [hlen] at hbytes
  refine ⟨_, hexec, hh, hor, congrArg (· ++ [(r, Result.code 0)]) hres, hout.seqs,
    ⟨hout.cfg, hout.crcOff, hout.lock, hout.bufLens, hout.port, hout.issuer⟩, ?_, fun g k hk => ?_, addr_newBlock _ _ _ _ _,
    off_newBlock _ _ _ _ _, sz_newBlock _ _ _ _ _, rfl, hatt, horder, htmp⟩
  · rw [report_mem, loadBlock_mem, hm, ← hlen]
    exact known?_writeRun s.mem buf 0 bs
  · rw [report_mem, loadBlock_mem, hm]
    exact hbytes g k hk

/-! ## A dead bus -/

/-- A block operation on a dead bus ends with its first chunk. -/
theorem exec_block_dead {s : State} {r : Nat} {w : Bool} {adr size : Word} {buf : BufId} {rest : List Answer} (ha : s.admits r)
    (hfree : s.lock = .free) (hb : s.bufferReady r buf 0 size.toNat (!w))
    (ho : s.oracle = List.replicate (3 * attempts s.cfg) .err ++ rest) :
    ∃ t, exec (if w then .writeBlock r adr buf size else .readBlock r adr buf size) s = .next t ∧
      t.h = s.h ++ unitOf r (deadRounds (attempts s.cfg) s.cfg s.crcOff (chunkBody s.cfg (newBlock w adr buf size))) ∧
      t.oracle = rest ∧ t.results = s.results ++ [(r, .code s.cfg.errBusFail)] ∧ t.seqs = s.seqs ∧ s.SameBase t ∧
      (w = false → t.lostBytes buf 0 size.toNat) ∧ OnlyIn ((newBlock w adr buf size).stores s.cfg) s t := by
  have hsound : (SeqPos.block (newBlock w adr buf size)).sound s.cfg r := newBlock_sound hb.1 r
  obtain ⟨u, hunit, hp, _⟩ := lockedRetry_dead (s := s.loadBlock (newBlock w adr buf size)) hfree ha.1
    (chunkOp_framed ha.1 hsound) r ho
  obtain ⟨m, hturn, hlost⟩ := chunkTurn_of_fail hfree ha.1 hsound hp.outside.cfg hunit
  obtain ⟨hbase, _, hstores⟩ := turned_sameBase (chunkTurn_turned ha.1 hsound)
  refine ⟨_, exec_block ha hb, ?_, ?_, ?_, ?_, hbase, hlost, hstores⟩ <;> rw [hturn]
  · exact hp.history
  · exact hp.oracle
  · exact congrArg (· ++ [(r, Result.code s.cfg.errBusFail)]) hp.results
  · exact hp.outside.seqs

/-- The command frame of a block operation's first chunk. -/
theorem chunkBody_newBlock (c : Cfg) (w : Bool) (adr : Word) (buf : BufId) (size : Word) :
    chunkBody c (newBlock w adr buf size) =
      blockBody (if w then c.opc.dmaExtWrite else c.opc.dmaExtRead) adr (min size.toNat (chunkSize c)) :=
  congrArg (blockBody _ · _) (addr_newBlock c w adr buf size)

/-- Settles O39: on a dead bus every attempt ends at its command frame. -/
theorem deadBusEndsInBusFail : Obligations.DeadBusEndsInBusFail := by
  intro s r adr dat buf size rest ha hfree ho
  refine ⟨readReg_dead ha hfree ho, writeReg_dead ha hfree ho, fun hb => ?_, fun hb => ?_⟩
  · obtain ⟨t, ht, hh, hor, hres, hseqs, hbase, hlost, hstores⟩ := exec_block_dead (w := false) (adr := adr) ha hfree hb ho
    rw [chunkBody_newBlock] at hh
    exact ⟨t, _, ht, rfl, hh, hor, hres, hseqs, hbase, hlost rfl, onlyIn_stores_sameBytesBut hstores⟩
  · obtain ⟨t, ht, hh, hor, hres, hseqs, hbase, _, hstores⟩ := exec_block_dead (w := true) (adr := adr) ha hfree hb ho
    rw [chunkBody_newBlock] at hh
    exact ⟨t, _, ht, rfl, hh, hor, hres, hseqs, hbase, onlyIn_sameBytes hstores (stores_of_write rfl)⟩

end Sys2Proof.Machine
end

section
/-! PROOFS. Failure entry of the four single-attempt transactions, whatever the transport answers (60_exceptions R224, 43_transactions
R171 to R176): what stands before it, and what is left when the attempt has ended. -/

namespace Sys2Proof.Machine

/-! ## Before failure entry -/

/-- What an operation that began in `s` with the command frame of `body` has done however it ended: its first event is the frame's
burst, and it went no further when that burst failed (60_exceptions R223). -/
structure Tried (s : State) (body : List Byte) {α : Type} (x : Ret α × State) : Prop where
  within : Within s x.2
  frame : ∃ ok evs, x.2.h = s.h ++ .w (frameBytes s.cfg s.crcOff body) ok :: evs ∧
    (ok = false → evs = [] ∧ x.1 = .fail (.transportError s.h.length))

theorem tried_command {s : State} (hw : s.cfg.wf = true) (c : CmdName) (adr dat sz : Word) (clk : Bool) :
    Tried s (s.cfg.opc.code c :: payload c adr dat sz clk) (command c adr dat sz clk s) where
  within := command_within c adr dat sz clk s
  frame := by
    obtain ⟨a, o, t, ht, hsent, _⟩ := command_result hw c adr dat sz clk
    rw [ht]
    exact ⟨_, [], (commanded_played hsent).history, fun hrefused => ⟨rfl, if_pos (by simpa using hrefused)⟩⟩

/-- What follows the frame is reached only when its burst succeeded. -/
theorem tried_andThen {α β : Type} {s : State} {body : List Byte} {x : Op α} {f : α → Op β} (hx : Tried s body (x s))
    (hf : ∀ a, Keeps Within (f a)) : Tried s body (andThen x f s) := by
  obtain ⟨hwithin, ok, evs, hh, hstop⟩ := hx
  rcases hr : x s with ⟨a | c, t⟩ <;> rw [hr] at hwithin hh hstop
  · obtain ⟨later, hlater, _⟩ := (hf a t).grew
    rw [andThen_of_ok hr]
    refine ⟨within_trans hwithin (hf a t), ok, evs ++ later, ?_, fun hrefused => nomatch (hstop hrefused).2⟩
    rw [hlater, hh, List.append_assoc, List.cons_append]
  · rw [andThen_of_fail hr]
    refine ⟨hwithin, ok, evs, hh, fun hrefused => ?_⟩
    obtain ⟨hnil, hcause⟩ := hstop hrefused
    cases hcause
    exact ⟨hnil, rfl⟩

section
variable {s : State} (hw : s.cfg.wf = true)
include hw

theorem xregRdTry_tried (adr : Word) : Tried s (readRegBody s.cfg adr) (xregRdTry adr s) := by
  rw [← readCommand_body]
  exact tried_andThen (tried_command hw _ adr 0 4 _) fun _ => within_andThen (spiCmdRsp_within _) fun _ =>
    within_andThen (spiDataRead_within .tmp 4 _) fun _ t => within_refl t

theorem xregWrTry_tried (adr dat : Word) : Tried s (writeRegBody s.cfg adr dat) (xregWrTry adr dat s) := by
  rw [← writeCommand_body]
  exact tried_andThen (tried_command hw _ adr dat 4 _) fun _ => spiCmdRsp_within _

theorem xblkRdTry_tried (adr : Word) (buf : BufId) (off n : Nat) :
    Tried s (blockBody s.cfg.opc.dmaExtRead adr n) (xblkRdTry adr buf off n s) := by
  rw [← blockBody_eq]
  exact tried_andThen (tried_command hw .dmaExtRead adr 0 _ false) fun _ => within_andThen (spiCmdRsp_within _) fun _ =>
    spiDataRead_within (.host buf off) n false

theorem xblkWrTry_tried (adr : Word) (buf : BufId) (off n : Nat) :
    Tried s (blockBody s.cfg.opc.dmaExtWrite adr n) (xblkWrTry adr buf off n s) := by
  rw [← blockBody_eq]
  exact tried_andThen (tried_command hw .dmaExtWrite adr 0 _ false) fun _ => within_andThen (spiCmdRsp_within _) fun _ =>
    spiDataWrite_within buf off n

end

/-! ## The four transactions as attempts -/

/-- Instruction `i` in `s` is one attempt of `x`, begun with the frame of `body` and within `n` transport calls, whose failure entry
has `lost` for the region `i` stores to (60_exceptions R224, 43_transactions R176). -/
structure Attempting (s : State) (i : Instr) (body : List Byte) (n : Nat) {α : Type} (x : Op α) (lost : State → State)
    (res : α → Result) : Prop where
  runs : exec i s = .next (conclude s.issuer res (attempt lost x s))
  tried : Tried s body (x s)
  account : Account n (storedTo i) s (attempt lost x s).2
  value : ∀ a c, res a ≠ .fail c
  entry : ∀ u, lost u = { u with mem := (lost u).mem }
  region : ∀ buf off m, storedTo i = some (buf, off, m) → ∀ u, (lost u).lostBytes buf off m

theorem bufForget_lostBytes (u : State) (buf : BufId) (off n : Nat) : (u.bufForget buf off n).lostBytes buf off n :=
  fun k hlo hhi => by simp [get?_forget, hlo, hhi]

theorem attempting_of_transaction {s : State} {i : Instr} {body : List Byte} {n : Nat} (hs : s.onBus) (h : Transaction s i body n) :
    ∃ (α : Type) (x : Op α) (lost : State → State) (res : α → Result), Attempting s i body n x lost res := by
  have hw : s.cfg.wf = true := hs.1.1
  have hp : 1 ≤ s.cfg.dataPktSz := dataPktSz_pos hw
  cases h with
  | regRead adr =>
    exact ⟨Word, xregRdTry adr, id, .okWord, runBus_of_onBus hs _ _, xregRdTry_tried hw adr,
      account_silent s (xregRd_inside adr) (xregRd_bounded hp adr) fun g a m => xregRd_onlyAt g a m adr,
      nofun, fun _ => rfl, nofun⟩
  | regWrite adr dat =>
    exact ⟨Unit, xregWrTry adr dat, id, fun _ => .ok, runBus_of_onBus hs _ _, xregWrTry_tried hw adr dat,
      account_silent s (xregWr_inside adr dat) (xregWr_bounded s.cfg adr dat) fun g a m => xregWr_onlyAt g a m adr dat,
      nofun, fun _ => rfl, nofun⟩
  | blockRead adr buf off n hb =>
    refine ⟨Unit, xblkRdTry adr buf off n.toNat, fun u => u.bufForget buf off n.toNat, fun _ => .ok, exec_xblkRd hs hb adr,
      xblkRdTry_tried hw adr buf off n.toNat, account_of (xblkRd_inside adr buf off n.toNat s)
        (xblkRd_bounded hp adr buf off n.toNat s) (xblkRd_onlyAt adr buf off n.toNat s), nofun, fun _ => rfl, ?_⟩
    rintro _ _ _ ⟨⟩ u
    exact bufForget_lostBytes u buf off n.toNat
  | blockWrite adr buf off n hb =>
    exact ⟨Unit, xblkWrTry adr buf off n.toNat, id, fun _ => .ok, exec_xblkWr hs hb adr,
      xblkWrTry_tried hw adr buf off n.toNat, account_silent s (xblkWr_inside adr buf off n.toNat)
        (xblkWr_bounded hp adr buf off n.toNat) fun g a m => xblkWr_onlyAt g a m adr buf off n.toNat,
      nofun, fun _ => rfl, nofun⟩

/-! ## After the attempt -/

section
variable {s : State} {i : Instr} {body : List Byte} {n : Nat} {α : Type} {x : Op α} {lost : State → State} {res : α → Result}

theorem attempt_cause {c : Cause} (hc : (x s).1 = .fail c) : (attempt lost x s).1 = .fail c := by
  rw [attempt_of_fail (Prod.ext hc rfl : x s = (.fail c, (x s).2))]

/-- Failure entry adds no event. -/
theorem attempting_h (h : Attempting s i body n x lost res) : (attempt lost x s).2.h = (x s).2.h := by
  rcases hr : x s with ⟨a | c, u⟩
  · rw [attempt_of_ok hr]
  · rw [attempt_of_fail hr, h.entry]
    rfl

/-- The events of an attempt: the frame's burst first, the last one when it failed, within R176's bound. -/
theorem attempting_events (h : Attempting s i body n x lost res) :
    ∃ ok evs, (attempt lost x s).2.h = s.h ++ .w (frameBytes s.cfg s.crcOff body) ok :: evs ∧
      (∀ e ∈ evs, e.isBurst = true) ∧ evs.length + 1 ≤ n ∧
      (ok = false → evs = [] ∧ (attempt lost x s).1 = .fail (.transportError s.h.length)) := by
  obtain ⟨ok, evs, hh, hstop⟩ := h.tried.frame
  obtain ⟨all, hall, hburst, hn⟩ := account_bursts h.account
  obtain rfl := List.append_cancel_left (hall.symm.trans ((attempting_h h).trans hh))
  exact ⟨ok, evs, hall, (List.forall_mem_cons.mp hburst).2, hn, fun hrefused => (hstop hrefused).imp_right attempt_cause⟩

/-- A success leaves the registers of `RETRY` and of the chunk loop alone. A failure leaves what `voidTransients` makes of the state
in which the attempt stood, the host buffers aside, and no byte of the region keeps a value. -/
theorem attempting_outcome (h : Attempting s i body n x lost res) :
    (∃ a t, attempt lost x s = (.ok a, t) ∧ t.att = s.att ∧ s.SameBlock t) ∨
    (∃ c u t, attempt lost x s = (.fail c, t) ∧ s.SameOutside u ∧ t = { u.voidTransients with mem := t.mem } ∧
      ∀ buf off m, storedTo i = some (buf, off, m) → t.lostBytes buf off m) := by
  have hwithin := h.tried.within
  rcases hr : x s with ⟨a | c, u⟩ <;> rw [hr] at hwithin
  · exact .inl ⟨a, u, attempt_of_ok hr, hwithin.att, hwithin.block⟩
  · exact .inr ⟨c, u, _, attempt_of_fail hr, hwithin.outside, h.entry _, fun buf off m hsome => h.region buf off m hsome _⟩

theorem sameOutside_report {t : State} (h : s.SameOutside t) (r : Nat) (v : Result) : s.SameOutside (t.report r v) :=
  sameOutside_trans h ⟨rfl, rfl, rfl, rfl, rfl, rfl, rfl, rfl⟩

end

/-- Settles O36: `attempting_events` gives the bursts, `attempting_outcome` the two ways an attempt ends. -/
theorem attemptsEndWhateverTheSlaveDoes : Obligations.AttemptsEndWhateverTheSlaveDoes := by
  intro s i body n hs htransaction
  obtain ⟨α, x, lost, res, h⟩ := attempting_of_transaction hs htransaction
  obtain ⟨ok, evs, hh, hburst, hn, hstop⟩ := attempting_events h
  obtain ⟨⟨hout, _, hresults⟩, _, hstores, _⟩ := h.account
  rcases attempting_outcome h with ⟨a, t, hr, hatt, hblock⟩ | ⟨c, u, t, hr, hinside, hvoid, hlost⟩ <;>
    rw [hr] at hh hstop hout hresults hstores
  · refine ⟨t.report s.issuer (res a), ok, evs, res a, h.runs.trans (by rw [conclude_of_ok hr]), hh, hburst, hn,
      congrArg (· ++ _) hresults, sameOutside_report hout _ _, fun hrefused => ?_,
      .inl ⟨h.value a, hatt, sameBlock_report hblock _ _⟩, onlyIn_sameBytes hstores, fun buf off m hsome => ?_⟩
    · cases (hstop hrefused).2
    · exact ⟨onlyIn_sameBytesBut hstores hsome, fun ⟨c, hc⟩ => absurd hc (h.value a c)⟩
  · refine ⟨t.report s.issuer (.fail c), ok, evs, .fail c, h.runs.trans (by rw [conclude_of_fail hr]), hh, hburst, hn,
      congrArg (· ++ _) hresults, sameOutside_report hout _ _, fun hrefused => ?_,
      .inr ⟨c, u, rfl, hinside, congrArg (State.report · _ _) hvoid⟩, onlyIn_sameBytes hstores, fun buf off m hsome => ?_⟩
    · obtain ⟨hnil, hcause⟩ := hstop hrefused
      cases hcause
      exact ⟨hnil, rfl⟩
    · exact ⟨onlyIn_sameBytesBut hstores hsome, fun _ => hlost buf off m hsome⟩

end Sys2Proof.Machine
end

section
/-! PROOFS. The lock that layers T and X need (70_reset R253, 44_bus_abstraction R190; log entry 12): each of their operations
stands behind `withBus`, and nothing behind that guard asks for the lock again. -/

namespace Sys2Proof.Machine

theorem mayDrive_iff {s : State} {r : Nat} : s.mayDrive r = true ↔ s.lock = .held r ∨ s.lock = .free ∧ s.cfg.nreq ≤ 1 := by
  simp [State.mayDrive]

theorem withBus_of_not_mayDrive {s : State} (ha : s.admits s.issuer) (h : ¬ s.mayDrive s.issuer = true) (k : Answered) :
    withBus s k = .refused .lockNotHeld :=
  (admit_of_admits ha _).trans (if_neg h)

/-- The guard of a buffer refuses for other reasons than the lock. -/
theorem withBuffer_ne_lockNotHeld {s : State} {who : Nat} {buf : BufId} {off n : Nat} {w : Bool} {t : State} :
    withBuffer s who buf off n w (.next t) ≠ .refused .lockNotHeld := by
  unfold withBuffer
  split_ifs <;> exact nofun

/-- Every operation of layers T and X, and every wire row, is some answer behind `withBus`. The cases are those of the guards:
the operations on a host buffer pass `withBuffer` next, the others run at once. -/
theorem exec_eq_withBus {i : Instr} (hi : needsBus i = true) (s : State) :
    ∃ k, exec i s = withBus s k ∧ k ≠ .refused .lockNotHeld := by
  cases i with
  | cmdDmaWrite | cmdDmaRead | cmdInternalWrite | cmdInternalRead | cmdTerminate | cmdRepeat | cmdDmaExtWrite | cmdDmaExtRead
  | cmdSingleWrite | cmdSingleRead | cmdReset | rspEcho | rspStatus | dataHdrFirst | dataHdrMiddle | dataHdrLast | dataRspHdr
  | spiCmd | spiCmdRsp | spiReset | xregRd | xregWr => exact ⟨.next _, rfl, nofun⟩
  | spiDataRead | spiDataWrite | xblkRd | xblkWr => exact ⟨_, rfl, withBuffer_ne_lockNotHeld⟩
  | crc7Byte | crc7 | crc7Tx | crc7Check | readReg | writeReg | readBlock | writeBlock | setCrc | lockAcquire | lockRelease =>
    cases hi

/-- Settles O52: the guard `withBus` decides by `mayDrive`, and it alone refuses for the lock. -/
theorem transportNeedsTheLock : Obligations.TransportNeedsTheLock := by
  intro s i hi ha
  obtain ⟨k, hexec, hk⟩ := exec_eq_withBus hi s
  rw [hexec]
  refine ⟨fun hnot hbusy => withBus_of_not_mayDrive ha (fun hdrive => ?_) k, fun hlock => ?_⟩
  · obtain ⟨hfree, hone⟩ := (mayDrive_iff.mp hdrive).resolve_left hnot
    exact hbusy.elim (absurd hfree) (Nat.not_lt.mpr hone)
  · have hdrive : s.mayDrive s.issuer = true := mayDrive_iff.mpr (hlock.imp_right fun ⟨hfree, hone⟩ => ⟨hfree, hone.le⟩)
    rwa [withBus_of_onBus ⟨ha, hdrive⟩]

end Sys2Proof.Machine
end
